-- ==== Sys2Proof/Word.lean ====
section
/-!
DEFINITION. The widths of snack CORE's values (00_scope.md rules R6 and R9). Every value is an unsigned
number of a stated width; `+`, `-` on these types wrap modulo the width, which is the spec's `trunc_N`.
-/

namespace Sys2Proof

/-- `XLEN` = 8: a general register, a timer, a byte of memory (R6). -/
abbrev Byte := BitVec 8

/-- 16 bits: an instruction word, `PC`, `I`, a call-stack entry, `KEYS` (R6). -/
abbrev Word := BitVec 16

/-- 64 bits: one framebuffer row (bit 63 is column 0, R33), and the random state (R32). -/
abbrev Quad := BitVec 64

/-- The number of a general register, 0 to 15. A number out of range cannot be formed (R20). -/
abbrev Reg := Fin 16

/-- A 12-bit address field `nnn` (R72). -/
abbrev Addr12 := BitVec 12

/-- A 4-bit row count `n` (R72) or key number of a port (R228). -/
abbrev Nibble := Fin 16

/-- `zext_16` of a byte (R9). -/
def zext16 (b : Byte) : Word := b.setWidth 16

/-- `zext_16` of a 12-bit address (R9, R72). -/
def zextAddr (a : Addr12) : Word := a.setWidth 16

end Sys2Proof
end

