-- ==== Sys2Proof/Config.lean ====
section
/-!
DEFINITION. What an implementation fixes and the document leaves open: the five parameters of
00_scope.md rule R7, as plain data. A value of `Params` is an argument of the machine; it is carried in
`Machine.State.params`, which no step changes, so a statement about every state is a statement about
every value of the parameters (log 1). The recommended defaults are in Machine/Params.lean.
The constants of rule R6 stand here too.
-/

namespace Sys2Proof

/-- `MEM_SIZE` (R6). -/
abbrev memSize : Nat := 4096
/-- `FB_ROWS` (R6). -/
abbrev fbRows : Nat := 32
/-- `FB_COLS` (R6). -/
abbrev fbCols : Nat := 64
/-- `PROG_BASE`: load address and entry point (R6). -/
abbrev progBase : Nat := 0x200
/-- `PROG_MAX`: the largest program in bytes, 4096 - 0x200 (R6). -/
abbrev progMax : Nat := 3584
/-- The glyph area holds 16 sprites of 5 bytes from address 0 (R6, R25). -/
abbrev glyphBytes : Nat := 80

/-- `OOB_POLICY` (R7, R55): what an access at an address of 0x1000 or more does. -/
inductive OobPolicy
  /-- the tick ends with `AddressFault(a)` (the default) -/
  | fault
  /-- the address is taken modulo 4096 and nothing faults -/
  | wrap12
  deriving DecidableEq, Repr

/-- `I_OVERFLOW` (R7, R152): what a carry out of bit 15 of `I` does. -/
inductive IndexOverflow
  /-- `I` wraps modulo 2^16 (the default) -/
  | wrap16
  /-- the tick ends with a fault -/
  | fault
  deriving DecidableEq, Repr

/-- The direction of one shift of the random step (R191). -/
inductive ShiftDir
  | left
  | right
  deriving DecidableEq, Repr

/-- One of the three steps of `RNG_STEP`: `s <- s ^ (s << amount)` or `s <- s ^ (s >> amount)` (R191). -/
structure XorShift where
  dir    : ShiftDir
  amount : Nat
  deriving DecidableEq, Repr

/-- The parameters the document leaves open (R7). -/
structure Params where
  /-- `STACK_DEPTH`: the most entries the call stack holds -/
  stackDepth : Nat
  /-- `GLYPH_ROM`: the bytes of 0x000 to 0x04F after reset -/
  glyphRom   : List Byte
  /-- `RNG_STEP`: its three fixed-shift steps, in order -/
  rng1       : XorShift
  rng2       : XorShift
  rng3       : XorShift
  /-- `OOB_POLICY` -/
  oob        : OobPolicy
  /-- `I_OVERFLOW` -/
  iOverflow  : IndexOverflow
  deriving DecidableEq, Repr

end Sys2Proof
end

