-- ==== Sys2Proof/Syntax.lean ====
section
/-!
DEFINITION. The 34 instructions of 30_encoding.md rule R74, one constructor a row, in the table's order.
The fields are those of rule R72, each in the type that holds exactly the values its bits can take, so
there is no ill-formed instruction (R76: no don't-care bits, no reserved operand value).
-/

namespace Sys2Proof

/-- An instruction. The comment of a constructor is its pattern and the spec's mnemonic (R74, R78). -/
inductive Instr
  /-- 00E0 `CLS` -/
  | cls
  /-- 00EE `RET` -/
  | ret
  /-- 1NNN `JP nnn` -/
  | jp (nnn : Addr12)
  /-- 2NNN `CALL nnn` -/
  | call (nnn : Addr12)
  /-- 3XKK `SE Vx, kk` -/
  | seImm (x : Reg) (kk : Byte)
  /-- 4XKK `SNE Vx, kk` -/
  | sneImm (x : Reg) (kk : Byte)
  /-- 5XY0 `SE Vx, Vy` -/
  | seReg (x y : Reg)
  /-- 6XKK `LD Vx, kk` -/
  | ldImm (x : Reg) (kk : Byte)
  /-- 7XKK `ADD Vx, kk` -/
  | addImm (x : Reg) (kk : Byte)
  /-- 8XY0 `LD Vx, Vy` -/
  | ldReg (x y : Reg)
  /-- 8XY1 `OR Vx, Vy` -/
  | orReg (x y : Reg)
  /-- 8XY2 `AND Vx, Vy` -/
  | andReg (x y : Reg)
  /-- 8XY3 `XOR Vx, Vy` -/
  | xorReg (x y : Reg)
  /-- 8XY4 `ADD Vx, Vy` -/
  | addReg (x y : Reg)
  /-- 8XY5 `SUB Vx, Vy` -/
  | subReg (x y : Reg)
  /-- 8XY6 `SHR Vx, Vy` -/
  | shrReg (x y : Reg)
  /-- 8XY7 `SUBN Vx, Vy` -/
  | subnReg (x y : Reg)
  /-- 8XYE `SHL Vx, Vy` -/
  | shlReg (x y : Reg)
  /-- 9XY0 `SNE Vx, Vy` -/
  | sneReg (x y : Reg)
  /-- ANNN `LD I, nnn` -/
  | ldI (nnn : Addr12)
  /-- BNNN `JP V0, nnn` -/
  | jpV0 (nnn : Addr12)
  /-- CXKK `RND Vx, kk` -/
  | rnd (x : Reg) (kk : Byte)
  /-- DXYN `DRW Vx, Vy, n` -/
  | drw (x y : Reg) (n : Nibble)
  /-- EX9E `SKP Vx` -/
  | skp (x : Reg)
  /-- EXA1 `SKNP Vx` -/
  | sknp (x : Reg)
  /-- FX07 `LD Vx, DT` -/
  | ldVxDt (x : Reg)
  /-- FX0A `LD Vx, K` -/
  | ldVxKey (x : Reg)
  /-- FX15 `LD DT, Vx` -/
  | ldDtVx (x : Reg)
  /-- FX18 `LD ST, Vx` -/
  | ldStVx (x : Reg)
  /-- FX1E `ADD I, Vx` -/
  | addI (x : Reg)
  /-- FX29 `LD F, Vx` -/
  | ldGlyph (x : Reg)
  /-- FX33 `LD B, Vx` -/
  | ldBcd (x : Reg)
  /-- FX55 `LD [I], Vx` -/
  | storeRegs (x : Reg)
  /-- FX65 `LD Vx, [I]` -/
  | loadRegs (x : Reg)
  deriving DecidableEq, Repr

end Sys2Proof
end

