-- ==== Sys2Proof/WellFormed.lean ====
section
/-!
DEFINITION. What must hold of the machine's arguments. An `Instr` needs no check: every operand value its
fields can hold is legal (30_encoding.md rules R72 and R76), and the types of Syntax.lean hold no other.
What can be ill-formed is a choice of the parameters (00_scope.md rule R7) and a program handed to the load
port (70_reset_and_hazards.md rules R241 and R242).
-/

namespace Sys2Proof

/-- One step of `RNG_STEP` has a fixed shift amount of 1 to 63 (R191). -/
def XorShift.wf (x : XorShift) : Bool := decide (1 ≤ x.amount) && decide (x.amount ≤ 63)

/-- The five bytes of digit 0, the only glyph the document gives (R25). -/
def digitZero : List Byte := [0xF0, 0x90, 0x90, 0x90, 0xF0]

/-- The admissible parameters (R7): a positive stack depth; 80 glyph bytes that begin with digit 0 (R25);
three steps of the form rule R191 fixes. -/
def Params.wf (p : Params) : Bool :=
  decide (0 < p.stackDepth) && decide (p.glyphRom.length = glyphBytes) && decide (p.glyphRom.take 5 = digitZero) &&
    p.rng1.wf && p.rng2.wf && p.rng3.wf

/-- A program the load port accepts has at most 3584 bytes (R241, R242). -/
def programFits (bytes : List Byte) : Bool := decide (bytes.length ≤ progMax)

end Sys2Proof
end

