-- ==== Sys2Proof/Machine/Params.lean ====
section
/-!
DEFINITION. The recommended values of the parameters the document leaves open (00_scope.md rule R7). They are
defaults only: `State.reset` starts with them, and every statement about the machine holds for every value.
-/

namespace Sys2Proof.Machine

/-- `GLYPH_ROM` of digits 0 to 7: digit 0 is the document's (R25); the rest is R25's table, which the spec
takes from general knowledge. PRESUMED, log 5. -/
def glyphsLow : List Byte :=
  [0xF0, 0x90, 0x90, 0x90, 0xF0,  0x20, 0x60, 0x20, 0x20, 0x70,  0xF0, 0x10, 0xF0, 0x80, 0xF0,  0xF0, 0x10, 0xF0, 0x10, 0xF0] ++
  [0x90, 0x90, 0xF0, 0x10, 0x10,  0xF0, 0x80, 0xF0, 0x10, 0xF0,  0xF0, 0x80, 0xF0, 0x90, 0xF0,  0xF0, 0x10, 0x20, 0x40, 0x40]

/-- `GLYPH_ROM` of digits 8 to F (R25's table). PRESUMED, log 5. -/
def glyphsHigh : List Byte :=
  [0xF0, 0x90, 0xF0, 0x90, 0xF0,  0xF0, 0x90, 0xF0, 0x10, 0xF0,  0xF0, 0x90, 0xF0, 0x90, 0x90,  0xE0, 0x90, 0xE0, 0x90, 0xE0] ++
  [0xF0, 0x80, 0x80, 0x80, 0xF0,  0xE0, 0x90, 0x90, 0x90, 0xE0,  0xF0, 0x80, 0xF0, 0x80, 0xF0,  0xF0, 0x80, 0xF0, 0x80, 0x80]

/-- `STACK_DEPTH` (R7). PRESUMED by the spec, log 3. -/
def defaultStackDepth : Nat := 16

/-- The default of R7's five parameters: stack depth 16 (log 3), the customary font (log 5), the shifts left 13,
right 7, left 17 (R191; PRESUMED by the spec, log 6), `fault` (D1, log 2), `wrap16` (D3, log 4). -/
def defaultParams : Params :=
  { stackDepth := defaultStackDepth
    glyphRom   := glyphsLow ++ glyphsHigh
    rng1       := ⟨.left, 13⟩
    rng2       := ⟨.right, 7⟩
    rng3       := ⟨.left, 17⟩
    oob        := .fault
    iOverflow  := .wrap16 }

/-- The seed of `State.reset`; `initialize` takes any 64-bit seed (R240, U11). DESIGN CHOICE, log 7. -/
def defaultSeed : Quad := 1

end Sys2Proof.Machine
end

