-- ==== Sys2Proof/Machine/State.lean ====
section
/-!
DEFINITION. The state of snack CORE: the tuple of 10_state.md rule R34, as plain data, and the reasons a step
can stop. Reset is 10_state.md rule R36 and 70_reset_and_hazards.md rule R240.
-/

namespace Sys2Proof.Machine

/-- Memory as a list of (address, byte) pairs in one canonical form (`Memory.wf`, Machine/Ops.lean): addresses
strictly rising, each below 4096, and no entry equal to what an unlisted address reads as, which is the reset
contents of that address (`resetByte`). -/
abbrev Memory := List Host.Cell

/-- The complete state (R34). Nothing else is state. -/
structure State where
  /-- `V[0]` to `V[15]` (R20); `V[15]` is `VF` (R22) -/
  v      : Vector Byte 16
  /-- `PC` (R23) -/
  pc     : Word
  /-- `MEM[0x000]` to `MEM[0xFFF]` (R24) -/
  mem    : Memory
  /-- `I`, a full 16-bit register, not masked (R26) -/
  i      : Word
  /-- `STACK`, oldest entry first; `SP` is its length (R27) -/
  stack  : List Word
  /-- `DT` (R30) -/
  dt     : Byte
  /-- `ST` (R30) -/
  st     : Byte
  /-- `KEYS`, bit `k` is key `k` (R31) -/
  keys   : Word
  /-- `RNG` (R32) -/
  rng    : Quad
  /-- `FB[0]` to `FB[31]`; column `c` of a row is its bit `63 - c` (R33) -/
  fb     : Vector Quad 32
  /-- THE MODEL'S OWN FIELD: the parameters of R7, an argument of the machine that nothing changes (log 1) -/
  params : Params
  deriving DecidableEq, Repr

/-- Why a tick ends with an error or a fault. The machine's state is then what it was before the tick (R215). -/
inductive Fault
  /-- `UndefinedOp(w)` (R210): raised by the decode of an illegal word. The document's own error: safe. -/
  | undefinedOp (w : Word)
  /-- `PoppedEmptyStack` (R211): raised by 00EE with an empty stack. The document's own error: safe. -/
  | poppedEmptyStack
  /-- `AddressFault(a)` (R212): raised by the fetch, DXYN, FX33, FX55 and FX65 under `OOB_POLICY` = `fault`;
  `a` is the lowest address outside memory the instruction would have touched. Safe (D1). -/
  | addressFault (a : Nat)
  /-- `StackOverflow` (R213): raised by 2NNN on a full stack. Safe (D2). -/
  | stackOverflow
  /-- The fault of `I_OVERFLOW` = `fault` (R152): raised by FX1E, FX55 and FX65 on a carry out of bit 15 of `I`.
  The spec gives it no name; this one is the model's (log 4). Safe (D3). -/
  | indexOverflow
  deriving DecidableEq, Repr

/-- Why the model gives no meaning. -/
inductive Refusal
  /-- an instruction without a meaning yet; raised by no arm of this model -/
  | notModelled (mnemonic : String)
  /-- a `loadProgram` of more than 3584 bytes, given with its length: raised by that port only, never by a step.
  The spec gives such a call no meaning and says to refuse it (R242, D15). Safe. -/
  | programTooLong (length : Nat)
  deriving DecidableEq, Repr

/-- The state after `initialize(seed)` (R36, R240), for any parameters. Memory lists nothing: every address reads
as its reset contents. `KEYS` = 0 is the spec's own decision D11 (log 10). -/
def State.initial (p : Params) (seed : Quad) : State :=
  { v      := Vector.replicate 16 0
    pc     := 0
    mem    := []
    i      := 0
    stack  := []
    dt     := 0
    st     := 0
    keys   := 0
    rng    := seed
    fb     := Vector.replicate 32 0
    params := p }

/-- The machine right after reset (R36): `initialize` with the default parameters (R7) and the seed of log 7. -/
def State.reset : State := State.initial defaultParams defaultSeed

end Sys2Proof.Machine
end

