-- ==== Sys2Proof/Machine/Ops.lean ====
section
/-!
DEFINITION. The named operations over the state that the instructions share: registers, memory, the call stack,
the program counter, the index register, the random state, the framebuffer rows and the timers; and what a raise
does. The meanings in the family files call these and nothing below them.
-/

namespace Sys2Proof.Machine

/-- What an instruction or a step answers. -/
abbrev Result := Host.Outcome State Fault Refusal

/-! ### Setting one item of the state -/

def State.setPc (s : State) (a : Word) : State := { s with pc := a }
def State.setI (s : State) (a : Word) : State := { s with i := a }
def State.setStack (s : State) (l : List Word) : State := { s with stack := l }
def State.setDt (s : State) (b : Byte) : State := { s with dt := b }
def State.setSt (s : State) (b : Byte) : State := { s with st := b }
def State.setKeys (s : State) (k : Word) : State := { s with keys := k }
def State.setRng (s : State) (q : Quad) : State := { s with rng := q }
def State.setV (s : State) (v : Vector Byte 16) : State := { s with v := v }
def State.setMem (s : State) (m : Memory) : State := { s with mem := m }
def State.setFb (s : State) (f : Vector Quad 32) : State := { s with fb := f }

/-! ### General registers (10_state.md R20; 00_scope.md R10) -/

/-- The number of `VF` (R22). -/
def vf : Reg := 15

/-- `V[x]`, read. -/
def State.reg (s : State) (x : Reg) : Byte := s.v.get x

/-- `V[x] <- b`. -/
def State.setReg (s : State) (x : Reg) (b : Byte) : State := s.setV (s.v.set x.val b x.isLt)

/-- `V[x] <- b`, then `VF <- f`: the result first, the flag last, so the flag stays when `x` = 15 (R11). -/
def State.setRegFlag (s : State) (x : Reg) (b f : Byte) : State := (s.setReg x b).setReg vf f

/-! ### Memory (10_state.md R24, R25; 20_memory.md R50 to R55) -/

/-- What an address reads as while nothing has been stored there: the contents after `initialize`, `GLYPH_ROM` in
the first 80 bytes and zero above (R36, R240). -/
def resetByte (p : Params) (a : Nat) : Byte := if a < glyphBytes then p.glyphRom.getD a 0 else 0

/-- The listed byte of an address. -/
def memLookup : Memory → Nat → Option Byte
  | [], _ => none
  | (k, b) :: m, a => if k = a then some b else memLookup m a

/-- The listing without an address. -/
def memErase : Memory → Nat → Memory
  | [], _ => []
  | (k, b) :: m, a => if k = a then memErase m a else (k, b) :: memErase m a

/-- The listing with an address's byte put at its place. -/
def memInsert : Memory → Nat → Byte → Memory
  | [], a, v => [(a, v)]
  | (k, b) :: m, a, v =>
    if a < k then (a, v) :: (k, b) :: m else if a = k then (a, v) :: m else (k, b) :: memInsert m a v

/-- The byte of an address. -/
def memRead (p : Params) (m : Memory) (a : Nat) : Byte := (memLookup m a).getD (resetByte p a)

/-- Memory with one byte stored, in canonical form. -/
def memWrite (p : Params) (m : Memory) (a : Nat) (v : Byte) : Memory :=
  if v = resetByte p a then memErase m a else memInsert m a v

/-- Every address of the listing is `lo` or more, they rise strictly below 4096, and no entry says what its address
reads as unlisted. -/
def memWfFrom (p : Params) : Nat → Memory → Bool
  | _, [] => true
  | lo, (k, b) :: m => decide (lo ≤ k) && decide (k < memSize) && decide (b ≠ resetByte p k) && memWfFrom p (k + 1) m

/-- The canonical form of memory: equal memories are equal lists. -/
def Memory.wf (p : Params) (m : Memory) : Bool := memWfFrom p 0 m

/-- The cell of memory an address selects: the address itself inside memory; its low 12 bits outside, which is
`OOB_POLICY` = `wrap12` (R55). Under `fault` no access outside memory gets here (`accessFault`). -/
def cellOf (a : Nat) : Nat := a % memSize

/-- The effective address `I + k`, a mathematical integer without truncation (R51). -/
def State.dataAddr (s : State) (k : Nat) : Nat := s.i.toNat + k

/-- The check of R55 before an access to the `len` addresses from `base`: under `fault`, the lowest address outside
memory if there is one; under `wrap12`, none. -/
def accessFault (p : Params) (base len : Nat) : Option Nat :=
  match p.oob with
  | .wrap12 => none
  | .fault => if len = 0 then none else if base + len ≤ memSize then none else some (max base memSize)

/-- `MemRead(a, 1)` (R52), after the check. -/
def State.readByte (s : State) (a : Nat) : Byte := memRead s.params s.mem (cellOf a)

/-- `MemWrite(a, 1, b)` (R53), after the check. -/
def State.writeByte (s : State) (a : Nat) (b : Byte) : State := s.setMem (memWrite s.params s.mem (cellOf a) b)

/-- The `n` bytes from an address, ascending. -/
def State.readBytes (s : State) (a n : Nat) : List Byte := (List.range n).map fun k => s.readByte (a + k)

/-- Bytes stored from an address, ascending (R59). -/
def State.writeBytes (s : State) (a : Nat) : List Byte → State
  | [] => s
  | b :: bs => (s.writeByte a b).writeBytes (a + 1) bs

/-! ### Raising (60_exceptions.md R215) -/

/-- `raise E`: the tick ends with `E`. There is no vector, no saved register and no mode change, and the state is what
it was before the tick, so the outcome carries the reason alone; the port `tick` hands back the old state
(Machine/Ports.lean). There is no return from a raise (R217). -/
def raise (e : Fault) : Result := .fault e

/-- An operation that may raise, then the rest of the instruction. -/
def andThen (r : Except Fault State) (k : State → Result) : Result :=
  match r with
  | .ok s => k s
  | .error e => raise e

/-- The access check of R55 in front of an instruction: `AddressFault` before anything is read or written. -/
def guardAccess (p : Params) (base len : Nat) (go : Result) : Result :=
  match accessFault p base len with
  | some a => raise (.addressFault a)
  | none => go

/-! ### Program counter (10_state.md R23; 00_scope.md R10) -/

/-- `next`: `PC <- PC + 2`. -/
def State.next (s : State) : State := s.setPc (s.pc + 2)

/-- `skip(c)`: `PC <- PC + 4` if `c`, else `PC + 2`. -/
def State.skip (s : State) (c : Bool) : State := s.setPc (s.pc + if c then 4 else 2)

/-! ### Index register (10_state.md R26) -/

/-- `I <- I + k` for `k` below 2^16: wrapping, or a fault on a carry out of bit 15, as `I_OVERFLOW` says (R152, D3). -/
def State.addToI (s : State) (k : Nat) : Except Fault State :=
  match s.params.iOverflow with
  | .wrap16 => .ok (s.setI (s.i + BitVec.ofNat 16 k))
  | .fault => if s.i.toNat + k < 2 ^ 16 then .ok (s.setI (s.i + BitVec.ofNat 16 k)) else .error .indexOverflow

/-! ### Call stack (10_state.md R27 to R29) -/

/-- `SP`. -/
def State.sp (s : State) : Nat := s.stack.length

/-- `Push(a)` (R28). -/
def State.push (s : State) (a : Word) : Except Fault State :=
  if s.sp = s.params.stackDepth then .error .stackOverflow else .ok (s.setStack (s.stack ++ [a]))

/-- The state without the newest entry: what `Pop()` leaves (R29). -/
def State.dropTop (s : State) : State := s.setStack s.stack.dropLast

/-- `Pop()` (R29), handing the entry to the rest of the instruction, which goes on from the state without it. -/
def popThen (s : State) (k : Word → State → Result) : Result :=
  match s.stack.getLast? with
  | none => raise .poppedEmptyStack
  | some a => k a s.dropTop

/-! ### Random state (44_timer_key_random.md R191) -/

/-- One of the three steps of `RNG_STEP`. -/
def xorShift (x : XorShift) (q : Quad) : Quad :=
  match x.dir with
  | .left => q ^^^ (q <<< x.amount)
  | .right => q ^^^ (q >>> x.amount)

/-- `RNG_STEP` (R191). -/
def rngStep (p : Params) (q : Quad) : Quad := xorShift p.rng3 (xorShift p.rng2 (xorShift p.rng1 q))

/-- `RNG <- RNG_STEP(RNG)`: the update of `NextRandomByte()`. -/
def State.stepRng (s : State) : State := s.setRng (rngStep s.params s.rng)

/-- The byte `NextRandomByte()` returns: the low byte of the new state (R191). -/
def State.randomByte (s : State) : Byte := (rngStep s.params s.rng).setWidth 8

/-! ### Framebuffer (10_state.md R33) -/

/-- `FB[r]`. The instructions name only rows 0 to 31; a row number outside reads as 0 here (log 25). -/
def State.row (s : State) (r : Nat) : Quad := s.fb.toList.getD r 0

/-- `FB[r] <- q`. A row number outside, which no instruction forms, changes nothing (log 25). -/
def State.setRow (s : State) (r : Nat) (q : Quad) : State := s.setFb (s.fb.setIfInBounds r q)

/-- Every row zero (R171). -/
def State.clearFb (s : State) : State := s.setFb (Vector.replicate 32 0)

/-! ### Timers (60_exceptions.md R220) -/

/-- One timer's count-down, saturating at 0. -/
def decTimer (t : Byte) : Byte := if t = 0 then 0 else t - 1

/-- Step 4 of the cycle: both timers count down (R77, R220). -/
def State.countDown (s : State) : State := (s.setDt (decTimer s.dt)).setSt (decTimer s.st)

/-- Steps 4 and 5 of the cycle: an `Ok` counts the timers down, a raise does not (R77, R220). -/
def finishTick (r : Result) : Result :=
  match r with
  | .next s => .next s.countDown
  | .fault e => .fault e
  | .refused e => .refused e

/-! ### Fetch (20_memory.md R54) -/

/-- `MemRead(PC, 2)`, big-endian, after the check. -/
def State.fetchWord (s : State) : Word := joinBytes (s.readByte s.pc.toNat) (s.readByte (s.pc.toNat + 1))

end Sys2Proof.Machine
end

