-- ==== Sys2Proof/Machine/Operands.lean ====
section
/-!
DEFINITION. The operand forms of the instructions beyond a plain register, immediate or address: the values the
rules compute from them before anything is written.
-/

namespace Sys2Proof.Machine

/-! ### Glyphs and decimal digits (42_index_memory.md R153, R154) -/

/-- `5 * zext_16(V[x])`: the whole register, no nibble mask (R153). -/
def glyphAddr (b : Byte) : Word := 5 * zext16 b

/-- The three decimal digits of a byte, hundreds first (R154; the order is the spec's decision D8, log 14). -/
def bcdDigits (b : Byte) : List Byte :=
  [BitVec.ofNat 8 (b.toNat / 100), BitVec.ofNat 8 (b.toNat / 10 % 10), BitVec.ofNat 8 (b.toNat % 10)]

/-! ### Register runs (R155, R156) -/

/-- How many registers `V[0]` to `V[x]` are. -/
def runLength (x : Reg) : Nat := x.val + 1

/-- `V[0]` to `V[x]`, ascending (R155). -/
def State.regRun (s : State) (x : Reg) : List Byte := s.v.toList.take (runLength x)

/-- `for r = 0 to x: V[r] <- MemRead(a + r, 1)`; the registers above `x` keep their values (R156). -/
def State.loadRun (s : State) (a : Nat) (x : Reg) : State :=
  s.setV (Vector.ofFn fun r => if r.val ≤ x.val then s.readByte (a + r.val) else s.reg r)

/-! ### Sprites (43_display.md R170, R173) -/

/-- `cx`: the start column, `V[x] mod 64`. -/
def startCol (b : Byte) : Nat := b.toNat % fbCols

/-- `cy`: the start row, `V[y] mod 32`. -/
def startRow (b : Byte) : Nat := b.toNat % fbRows

/-- The number of rows drawn: `n`, clipped at the bottom edge. -/
def drawnRows (n : Nibble) (cy : Nat) : Nat := min n.val (fbRows - cy)

/-- `Line(b, cx)`: the byte in columns 0 to 7, shifted right by `cx`; what passes column 63 is dropped (R170; the
byte's bit order is the spec's decision D7, log 13). -/
def spriteLine (b : Byte) (cx : Nat) : Quad := (b.setWidth 64 <<< 56) >>> cx

/-! ### Keys (44_timer_key_random.md R193, R196) -/

/-- `KeyDown(k)`: `k <= 15` and bit `k` of `KEYS` (R193; that a number of 16 or more is never down is the spec's
decision D4, log 11). -/
def State.keyDown (s : State) (k : Byte) : Bool := decide (k.toNat ≤ 15) && s.keys.getLsbD k.toNat

/-- The least key down, by the fixed 16-key scan; none when `KEYS` = 0 (R196). -/
def State.lowestKey (s : State) : Option Nat := (List.range 16).find? fun k => s.keys.getLsbD k

end Sys2Proof.Machine
end

