-- ==== Sys2Proof/Machine/Flags.lean ====
section
/-!
DEFINITION. The values the instructions write to `VF` (10_state.md rule R22). Every one is 0 or 1.
-/

namespace Sys2Proof.Machine

/-- A flag value. -/
def flag (c : Bool) : Byte := if c then 1 else 0

/-- 8XY4: 1 iff the true sum exceeds 255 (41_alu.md R126). -/
def carryFlag (a b : Byte) : Byte := flag (decide (a.toNat + b.toNat > 255))

/-- 8XY5, 8XY7: 1 iff the minuend is strictly greater than the subtrahend (R127, R129). -/
def greaterFlag (minuend subtrahend : Byte) : Byte := flag (decide (minuend.toNat > subtrahend.toNat))

/-- 8XY6: the bit shifted out on the right, bit 0 of the source (R128). -/
def lowBitFlag (b : Byte) : Byte := flag (b.getLsbD 0)

/-- 8XYE: the bit shifted out on the left, bit 7 of the source (R130). -/
def highBitFlag (b : Byte) : Byte := flag (b.getLsbD 7)

/-- DXYN, one row: 1 iff a pixel that was on is turned off (43_display.md R172, C3). -/
def collisionFlag (old line : Quad) : Byte := flag (decide (old &&& line ≠ 0))

end Sys2Proof.Machine
end

