-- ==== Sys2Proof/Machine/Alu.lean ====
section
/-!
DEFINITION. Register load and arithmetic (41_alu.md rules R119 to R130). Sources are read first, the result is
written, `VF` last (00_scope.md R11; D10, log 16). All arithmetic is on 8 bits and wraps (R119).
-/

namespace Sys2Proof.Machine

/-- The shape of 8XY1 to 8XYE with a flag: the result to `V[x]`, then the flag to `VF`, then `next`. -/
def regWithFlag (x : Reg) (value f : Byte) (s : State) : Result := .next (s.setRegFlag x value f).next

/-- 6XKK (R120). -/
def execLdImm (x : Reg) (kk : Byte) (s : State) : Result := .next (s.setReg x kk).next

/-- 7XKK: wrapping, no flag (R121). -/
def execAddImm (x : Reg) (kk : Byte) (s : State) : Result := .next (s.setReg x (s.reg x + kk)).next

/-- 8XY0 (R122). -/
def execLdReg (x y : Reg) (s : State) : Result := .next (s.setReg x (s.reg y)).next

/-- 8XY1: or; `VF` cleared (R123). -/
def execOrReg (x y : Reg) (s : State) : Result := regWithFlag x (s.reg x ||| s.reg y) 0 s

/-- 8XY2: and; `VF` cleared (R124). -/
def execAndReg (x y : Reg) (s : State) : Result := regWithFlag x (s.reg x &&& s.reg y) 0 s

/-- 8XY3: exclusive or; `VF` cleared (R125). -/
def execXorReg (x y : Reg) (s : State) : Result := regWithFlag x (s.reg x ^^^ s.reg y) 0 s

/-- 8XY4: add; `VF` is the carry (R126). -/
def execAddReg (x y : Reg) (s : State) : Result := regWithFlag x (s.reg x + s.reg y) (carryFlag (s.reg x) (s.reg y)) s

/-- 8XY5: `V[x] - V[y]`; `VF` is 1 iff strictly greater (R127). -/
def execSubReg (x y : Reg) (s : State) : Result := regWithFlag x (s.reg x - s.reg y) (greaterFlag (s.reg x) (s.reg y)) s

/-- 8XY6: `V[y]` shifted right by one; `VF` is the bit shifted out (R128). -/
def execShrReg (x y : Reg) (s : State) : Result := regWithFlag x (s.reg y >>> 1) (lowBitFlag (s.reg y)) s

/-- 8XY7: `V[y] - V[x]`; `VF` is 1 iff strictly greater (R129). -/
def execSubnReg (x y : Reg) (s : State) : Result := regWithFlag x (s.reg y - s.reg x) (greaterFlag (s.reg y) (s.reg x)) s

/-- 8XYE: `V[y]` shifted left by one; `VF` is the bit shifted out (R130). -/
def execShlReg (x y : Reg) (s : State) : Result := regWithFlag x (s.reg y <<< 1) (highBitFlag (s.reg y)) s

end Sys2Proof.Machine
end

