-- ==== Sys2Proof/Machine/Display.lean ====
section
/-!
DEFINITION. The framebuffer instructions (43_display.md rules R170 to R173).
-/

namespace Sys2Proof.Machine

/-- 00E0: every row zero; `VF` is not touched (R171). -/
def execCls (s : State) : Result := .next s.clearFb.next

/-- One drawn row: `VF` gets this row's collision bit, the row is exclusive-ored with the line (R173). -/
def State.drawRow (s : State) (cx row : Nat) (b : Byte) : State :=
  (s.setReg vf (collisionFlag (s.row row) (spriteLine b cx))).setRow row (s.row row ^^^ spriteLine b cx)

/-- The drawn rows, top row first, each overwriting `VF` (R173; D24, log 18). -/
def State.drawRows (s : State) (cx row : Nat) : List Byte → State
  | [] => s
  | b :: bs => (s.drawRow cx row b).drawRows cx (row + 1) bs

/-- The number of rows DXYN draws, from the registers as they are before the instruction (R173). -/
def State.spriteRows (s : State) (y : Reg) (n : Nibble) : Nat := drawnRows n (startRow (s.reg y))

/-- DXYN. The coordinates are sampled once; only the rows that will be drawn are read and can fault (D27, log 19);
with no row drawn nothing but `PC` changes (D6, log 12). The bytes are read before the first row is drawn, which
is the same as row by row, since drawing writes no memory. -/
def execDrw (x y : Reg) (n : Nibble) (s : State) : Result :=
  guardAccess s.params (s.dataAddr 0) (s.spriteRows y n)
    (.next (s.drawRows (startCol (s.reg x)) (startRow (s.reg y)) (s.readBytes (s.dataAddr 0) (s.spriteRows y n))).next)

end Sys2Proof.Machine
end

