-- ==== Sys2Proof/Machine/Flow.lean ====
section
/-!
DEFINITION. Control transfer and conditional skips (40_flow.md rules R101 to R108). Each is step 3 of the cycle
(30_encoding.md R77). A target is not checked when it is written (R100).
-/

namespace Sys2Proof.Machine

/-- 00EE: `PC <- Pop()` (R101). -/
def execRet (s : State) : Result := popThen s fun t s' => .next (s'.setPc t)

/-- 1NNN: `PC <- nnn` (R102). -/
def execJp (nnn : Addr12) (s : State) : Result := .next (s.setPc (zextAddr nnn))

/-- 2NNN: push `PC + 2`, `PC <- nnn` (R103). -/
def execCall (nnn : Addr12) (s : State) : Result := andThen (s.push (s.pc + 2)) fun s' => .next (s'.setPc (zextAddr nnn))

/-- BNNN: `PC <- nnn + V[0]`, not masked to 12 bits (R104, D19, log 21). -/
def execJpV0 (nnn : Addr12) (s : State) : Result := .next (s.setPc (zextAddr nnn + zext16 (s.reg 0)))

/-- 3XKK: skip if equal (R105). -/
def execSeImm (x : Reg) (kk : Byte) (s : State) : Result := .next (s.skip (decide (s.reg x = kk)))

/-- 4XKK: skip if different (R106). -/
def execSneImm (x : Reg) (kk : Byte) (s : State) : Result := .next (s.skip (decide (s.reg x ≠ kk)))

/-- 5XY0: skip if equal (R107). -/
def execSeReg (x y : Reg) (s : State) : Result := .next (s.skip (decide (s.reg x = s.reg y)))

/-- 9XY0: skip if different (R108). -/
def execSneReg (x y : Reg) (s : State) : Result := .next (s.skip (decide (s.reg x ≠ s.reg y)))

end Sys2Proof.Machine
end

