-- ==== Sys2Proof/Machine/IndexMemory.lean ====
section
/-!
DEFINITION. Index register, loads and stores (42_index_memory.md rules R150 to R156). The three memory instructions
check their whole address range before anything is written (R150, 20_memory.md R55).
-/

namespace Sys2Proof.Machine

/-- ANNN: `I <- nnn` (R151). -/
def execLdI (nnn : Addr12) (s : State) : Result := .next (s.setI (zextAddr nnn)).next

/-- FX1E: `I <- I + V[x]`, 16 bits, not masked (R152; `I_OVERFLOW`, log 4). -/
def execAddI (x : Reg) (s : State) : Result := andThen (s.addToI (s.reg x).toNat) fun s' => .next s'.next

/-- FX29: `I <- 5 * V[x]` (R153). -/
def execLdGlyph (x : Reg) (s : State) : Result := .next (s.setI (glyphAddr (s.reg x))).next

/-- FX33: the three decimal digits of `V[x]` at `I`, `I + 1`, `I + 2`; `I` is not changed (R154). -/
def execLdBcd (x : Reg) (s : State) : Result :=
  guardAccess s.params (s.dataAddr 0) 3 (.next (s.writeBytes (s.dataAddr 0) (bcdDigits (s.reg x))).next)

/-- FX55: `V[0]` to `V[x]` stored from `I`, then `I <- I + 1` (R155; the increment is D9, log 15). -/
def execStoreRegs (x : Reg) (s : State) : Result :=
  guardAccess s.params (s.dataAddr 0) (runLength x)
    (andThen ((s.writeBytes (s.dataAddr 0) (s.regRun x)).addToI 1) fun s' => .next s'.next)

/-- FX65: `V[0]` to `V[x]` loaded from `I`, then `I <- I + 1` (R156; D9, log 15). -/
def execLoadRegs (x : Reg) (s : State) : Result :=
  guardAccess s.params (s.dataAddr 0) (runLength x)
    (andThen ((s.loadRun (s.dataAddr 0) x).addToI 1) fun s' => .next s'.next)

end Sys2Proof.Machine
end

