-- ==== Sys2Proof/Machine/TimerKeyRandom.lean ====
section
/-!
DEFINITION. Random, key and timer instructions (44_timer_key_random.md rules R190 to R199). The count-down of the
timers is step 4 of the cycle and stands in `step`, not here.
-/

namespace Sys2Proof.Machine

/-- CXKK: the next random byte and `kk`; the random state advances once, also for `kk` = 0 (R192). -/
def execRnd (x : Reg) (kk : Byte) (s : State) : Result := .next (s.stepRng.setReg x (s.randomByte &&& kk)).next

/-- EX9E: skip if the key of `V[x]` is down (R194). -/
def execSkp (x : Reg) (s : State) : Result := .next (s.skip (s.keyDown (s.reg x)))

/-- EXA1: skip if it is not down (R195). -/
def execSknp (x : Reg) (s : State) : Result := .next (s.skip (!s.keyDown (s.reg x)))

/-- FX07: `V[x] <- DT`, as it was before this tick's count-down (R197). -/
def execLdVxDt (x : Reg) (s : State) : Result := .next (s.setReg x s.dt).next

/-- FX0A: with no key down nothing changes, `PC` included, and the tick is still `Ok`; otherwise the lowest key down
goes to `V[x]` (R196; D5, log 17). -/
def execLdVxKey (x : Reg) (s : State) : Result :=
  match s.lowestKey with
  | none => .next s
  | some k => .next (s.setReg x (BitVec.ofNat 8 k)).next

/-- FX15: `DT <- V[x]` (R198). -/
def execLdDtVx (x : Reg) (s : State) : Result := .next (s.setDt (s.reg x)).next

/-- FX18: `ST <- V[x]` (R199). -/
def execLdStVx (x : Reg) (s : State) : Result := .next (s.setSt (s.reg x)).next

end Sys2Proof.Machine
end

