-- ==== Sys2Proof/Machine/Step.lean ====
section
/-!
DEFINITION. The instruction cycle, 30_encoding.md rule R77: fetch, decode, execute, count down.
-/

namespace Sys2Proof.Machine

/-- One tick (R77, 60_exceptions.md R226). The order of the steps is the order of the raises (R216). -/
def step (s : State) : Host.Outcome State Fault Refusal :=
  guardAccess s.params s.pc.toNat 2
    (match decodeWord s.fetchWord with
    | none => raise (.undefinedOp s.fetchWord)
    | some i => finishTick (exec i s))

/-- The state with an instruction stored where `step` fetches next: the word `w`, cut to its first `nbits` bits, at
`PC` and `PC + 1`, big-endian (20_memory.md R54). Only where a fetch at `PC` would fault is `PC` first set to the entry
point 0x200, as `loadProgram` does (log 9). Nothing else changes. -/
def State.withFetchWord (s : State) (nbits w : Nat) : State :=
  let word := BitVec.ofNat 16 (w % 2 ^ nbits)
  let t := match accessFault s.params s.pc.toNat 2 with
    | none => s
    | some _ => s.setPc (BitVec.ofNat 16 progBase)
  t.writeBytes t.pc.toNat [highByte word, lowByte word]

end Sys2Proof.Machine
end

