-- ==== Sys2Proof/Machine/Ports.lean ====
section
/-!
DEFINITION. The six ports of the block (60_exceptions.md rules R225 to R231; 70_reset_and_hazards.md rules R240 to
R246), each an atomic operation the host calls between ticks, one at a time (R227). The host's calls are an input of
the machine: any of them may come between two ticks, in any order (U14, U15; log 22).
-/

namespace Sys2Proof.Machine

/-- `loadProgram(bytes)` (R241): the bytes at 0x200 upward, `PC` = 0x200, nothing else. Refused when longer than 3584
bytes (R242). It may be called again after ticks (R243). -/
def loadProgram (bytes : List Byte) (s : State) : Result :=
  if programFits bytes then .next ((s.writeBytes progBase bytes).setPc (BitVec.ofNat 16 progBase))
  else .refused (.programTooLong bytes.length)

/-- The bit of one key in `KEYS` (10_state.md R31). -/
def keyBit (k : Nibble) : Word := (1 : Word) <<< k.val

/-- `pressKey(k)`: `KEYS[k] <- 1` (R228). -/
def pressKey (k : Nibble) (s : State) : State := s.setKeys (s.keys ||| keyBit k)

/-- `releaseKey(k)`: `KEYS[k] <- 0` (R229). -/
def releaseKey (k : Nibble) (s : State) : State := s.setKeys (s.keys &&& ~~~keyBit k)

/-- `readFramebuffer()`: the 32 rows, row 0 first; changes nothing (R230). -/
def readFramebuffer (s : State) : List Quad := s.fb.toList

/-- What a call of `tick()` gives back (R225). -/
inductive TickResult
  | ok
  | raised (e : Fault)
  /-- no tick of this model answers this -/
  | refused (r : Refusal)
  deriving DecidableEq, Repr

/-- `tick()` (R226): its result, and the state after it, which on a raise is the state before it (R215). A further
call after a raise repeats it: no error is latched (R217). -/
def tick (s : State) : TickResult × State :=
  match step s with
  | .next t => (.ok, t)
  | .fault e => (.raised e, s)
  | .refused r => (.refused r, s)

/-- A call of a port, with its argument. -/
inductive PortCall
  /-- `initialize(seed)` -/
  | start (seed : Quad)
  | load (bytes : List Byte)
  | tick
  | readFrame
  | press (k : Nibble)
  | release (k : Nibble)
  deriving DecidableEq, Repr

/-- What the host gets back from a call (R225). -/
inductive PortReply
  | none
  | ticked (r : TickResult)
  | frame (rows : List Quad)
  deriving DecidableEq, Repr

/-- One port call: the reply and the state after it, or a refusal of the call (R242). `initialize` keeps nothing but
the parameters, which are not state (R240). -/
def portCall (c : PortCall) (s : State) : Host.Outcome (PortReply × State) Fault Refusal :=
  match c with
  | .start seed => .next (.none, State.initial s.params seed)
  | .load bytes =>
    match loadProgram bytes s with
    | .next t => .next (.none, t)
    | .fault e => .fault e
    | .refused r => .refused r
  | .tick => .next (.ticked (Machine.tick s).1, (Machine.tick s).2)
  | .readFrame => .next (.frame (readFramebuffer s), s)
  | .press k => .next (.none, pressKey k s)
  | .release k => .next (.none, releaseKey k s)

/-- A sequence of port calls, to the state after the last; `none` where one is refused. -/
def portCalls (s : State) : List PortCall → Option State
  | [] => some s
  | c :: cs =>
    match portCall c s with
    | .next (_, t) => portCalls t cs
    | .fault _ => none
    | .refused _ => none

end Sys2Proof.Machine
end

