-- ==== Sys2Proof/Safety.lean ====
section
/-!
DEFINITION. What counts as a safe run, and the invariant of the machine.
-/

namespace Sys2Proof.Machine

/-- The invariant: admissible parameters (00_scope.md R7), memory in canonical form with every address below 4096
(10_state.md R24), and a call stack of at most `STACK_DEPTH` entries (R27). -/
structure State.Inv (s : State) : Prop where
  params : s.params.wf = true
  mem    : Memory.wf s.params s.mem = true
  stack  : s.sp ≤ s.params.stackDepth

/-- A tick is safe when its result is `Ok`: no error and no fault (60_exceptions.md R217: either ends the run, and is
no final state). -/
def State.TickOk (s : State) : Prop := ∃ t, step s = .next t

/-- `k` safe ticks lead from one state to another (with no port call between them). -/
inductive SafeTicks : Nat → State → State → Prop
  | zero (s : State) : SafeTicks 0 s s
  | succ {k : Nat} {s t u : State} : step s = .next t → SafeTicks k t u → SafeTicks (k + 1) s u

/-- The self-jump idiom (70_reset_and_hazards.md R246): `PC` addresses a 1NNN whose target is its own address. It is
the successful end of a run. -/
def State.AtSelfJump (s : State) : Prop :=
  ∃ nnn, accessFault s.params s.pc.toNat 2 = none ∧ decodeWord s.fetchWord = some (.jp nnn) ∧ zextAddr nnn = s.pc

/-- The states the host can bring about: `initialize`, then any sequence of port calls none of which is refused
(60_exceptions.md R227, R231). -/
def Reachable (s : State) : Prop :=
  ∃ p seed calls, Params.wf p = true ∧ portCalls (State.initial p seed) calls = some s

end Sys2Proof.Machine
end

