-- ==== Sys2Proof/Certificates/Slice0/Obligations.lean ====
section
/-!
DEFINITION. The statements for the provers. Each is about every state and every value of the parameters of
00_scope.md rule R7, unless a premise names one. A docstring names the rule a statement formalises; where a clause rests
on a decision the spec marks as its own (D<n>), it says so and names the log entry.
-/

namespace Sys2Proof.Claims

open Sys2Proof Sys2Proof.Machine

/-! ### Frames -/

/-- The items of the state beside the general registers and `PC` (10_state.md R34), and the parameters. -/
inductive Item
  | mem
  | i
  | stack
  | dt
  | st
  | keys
  | rng
  | fb
  | params
  deriving DecidableEq, Repr

/-- An item is the same in two states; of memory, every byte reads the same. -/
def Same (s t : State) : Item → Prop
  | .mem => ∀ a, t.readByte a = s.readByte a
  | .i => t.i = s.i
  | .stack => t.stack = s.stack
  | .dt => t.dt = s.dt
  | .st => t.st = s.st
  | .keys => t.keys = s.keys
  | .rng => t.rng = s.rng
  | .fb => t.fb = s.fb
  | .params => t.params = s.params

/-- Every item but the named ones is the same. -/
def SameBut (changed : List Item) (s t : State) : Prop := ∀ it, it ∉ changed → Same s t it

/-- Every general register but the named ones is the same. -/
def RegsSameBut (changed : List Reg) (s t : State) : Prop := ∀ r, r ∉ changed → t.reg r = s.reg r

/-- The registers an instruction may write (10_state.md R21's last column). -/
def writtenRegs : Instr → List Reg
  | .cls | .ret | .jp _ | .call _ | .seImm _ _ | .sneImm _ _ | .seReg _ _ | .sneReg _ _ | .ldI _ | .jpV0 _ => []
  | .ldImm x _ | .addImm x _ | .ldReg x _ | .rnd x _ | .ldVxDt x | .ldVxKey x => [x]
  | .orReg x _ | .andReg x _ | .xorReg x _ | .addReg x _ | .subReg x _ | .shrReg x _ | .subnReg x _ | .shlReg x _ => [x, vf]
  | .drw _ _ _ => [vf]
  | .skp _ | .sknp _ | .ldDtVx _ | .ldStVx _ | .addI _ | .ldGlyph _ | .ldBcd _ | .storeRegs _ => []
  | .loadRegs x => (List.finRange 16).filter fun r => decide (r ≤ x)

/-- The other items an instruction may write: memory (R24's table), `I` (R26), the call stack (R27), the timers (R30),
the random state (R32), the framebuffer (R33). No instruction writes the key mask (R31). -/
def writtenItems : Instr → List Item
  | .cls | .drw _ _ _ => [.fb]
  | .ret | .call _ => [.stack]
  | .ldI _ | .addI _ | .ldGlyph _ | .loadRegs _ => [.i]
  | .ldBcd _ => [.mem]
  | .storeRegs _ => [.mem, .i]
  | .rnd _ _ => [.rng]
  | .ldDtVx _ => [.dt]
  | .ldStVx _ => [.st]
  | .jp _ | .seImm _ _ | .sneImm _ _ | .seReg _ _ | .sneReg _ _ | .jpV0 _ => []
  | .ldImm _ _ | .addImm _ _ | .ldReg _ _ | .orReg _ _ | .andReg _ _ | .xorReg _ _ => []
  | .addReg _ _ | .subReg _ _ | .shrReg _ _ | .subnReg _ _ | .shlReg _ _ => []
  | .skp _ | .sknp _ | .ldVxDt _ | .ldVxKey _ => []

/-! ### When an instruction goes through -/

/-- The `len` addresses from `I` may be accessed (20_memory.md R55). -/
def Accessible (s : State) (len : Nat) : Prop := s.params.oob = .wrap12 ∨ len = 0 ∨ s.i.toNat + len ≤ 0x1000

/-- `PC` and `PC + 1` may be fetched (30_encoding.md R77: no fault below 0x0FFF). -/
def Fetchable (s : State) : Prop := s.params.oob = .wrap12 ∨ s.pc.toNat < 0x0FFF

/-- Adding `k` to `I` does not fault (42_index_memory.md R152, `I_OVERFLOW`). -/
def IndexCanAdd (s : State) (k : Nat) : Prop := s.params.iOverflow = .wrap16 ∨ s.i.toNat + k < 2 ^ 16

/-- How many addresses from `I` an instruction touches (20_memory.md R51). -/
def dataLength (s : State) : Instr → Nat
  | .drw _ y n => min n.val (32 - (s.reg y).toNat % 32)
  | .ldBcd _ => 3
  | .storeRegs x | .loadRegs x => x.val + 1
  | _ => 0

/-- What an instruction adds to `I` (R152, R155, R156). -/
def indexAddend (s : State) : Instr → Nat
  | .addI x => (s.reg x).toNat
  | .storeRegs _ | .loadRegs _ => 1
  | _ => 0

/-! ### Words written as their four nibbles (30_encoding.md R71) -/

/-- Format `NNN`. -/
def wordNNN (op : BitVec 4) (nnn : Addr12) : Word := op ++ nnn
/-- Format `XKK`; with a fixed function byte for `kk`, format `X`. -/
def wordXKK (op : BitVec 4) (x : Reg) (kk : Byte) : Word := op ++ BitVec.ofNat 4 x.val ++ kk
/-- Formats `XY` (with a fixed function nibble) and `XYN`. -/
def wordXYN (op : BitVec 4) (x y : Reg) (n : BitVec 4) : Word := op ++ BitVec.ofNat 4 x.val ++ BitVec.ofNat 4 y.val ++ n

/-! ### Runs -/

/-- `k` ticks that all answer `Ok` and none of which executes an FX15. -/
inductive TicksNotSettingDelay : Nat → State → State → Prop
  | zero (s : State) : TicksNotSettingDelay 0 s s
  | succ {k : Nat} {s t u : State} : (∀ x, decodeWord s.fetchWord ≠ some (.ldDtVx x)) → step s = .next t →
      TicksNotSettingDelay k t u → TicksNotSettingDelay (k + 1) s u

end Sys2Proof.Claims

open Sys2Proof Sys2Proof.Machine Sys2Proof.Claims

/-! ### Encoding -/

/-- Decoding an instruction's encoding gives it back, with every operand, and leaves the bytes after it. -/
def Obligations.DecodeOfEncodeIsTheInstruction : Prop :=
  ∀ (i : Instr) (rest : List Byte), decodeWord (encode i) = some i ∧ decode (encodeBytes i ++ rest) = .ok (i, rest)

/-- R76: no word has a don't-care bit, so an instruction has one word only; in particular the low nibble of 5XY0 and 9XY0
and the second nibble of 00E0 and 00EE are 0. -/
def Obligations.EncodeOfDecodeIsTheWord : Prop :=
  (∀ (w : Word) (i : Instr), decodeWord w = some i → encode i = w) ∧
    (∀ (w : Word) (x y : Reg), decodeWord w = some (.seReg x y) ∨ decodeWord w = some (.sneReg x y) → w.extractLsb' 0 4 = 0) ∧
    ∀ w : Word, decodeWord w = some .cls ∨ decodeWord w = some .ret → w.extractLsb' 8 4 = 0

/-- R74 with R73: a word decodes to an instruction of the row it selects, and to nothing exactly when it selects none. -/
def Obligations.DecodeFollowsTheOpcodeMap : Prop :=
  ∀ w : Word,
    (∀ i, decodeWord w = some i → opcodeRow i ∈ opcodeTable ∧ (opcodeRow i).selects w = true) ∧
      (decodeWord w = none ↔ ∀ r ∈ opcodeTable, r.selects w = false)

/-- R74: 34 rows, pairwise disjoint. -/
def Obligations.OpcodeRowsAreDisjoint : Prop :=
  opcodeTable.length = 34 ∧
    ∀ w : Word, ∀ r ∈ opcodeTable, ∀ r' ∈ opcodeTable, r.selects w = true → r'.selects w = true → r = r'

/-- Words written out from the formats of R71 and R74 decode to the instructions they stand for. -/
def Obligations.WrittenOutWordsDecode : Prop :=
  decodeWord 0b0000000011100000 = some .cls ∧ decodeWord 0b0010101010111100 = some (.call 0xABC) ∧
    decodeWord 0b0110101000111100 = some (.ldImm 0xA 0x3C) ∧ decodeWord 0b1000101010110111 = some (.subnReg 0xA 0xB) ∧
    decodeWord 0b1101000100100101 = some (.drw 1 2 5) ∧ decodeWord 0b1110000110011110 = some (.skp 1) ∧
    decodeWord 0b1111001101100101 = some (.loadRegs 3) ∧ decodeWord 0b0101000000000001 = none ∧
    decodeWord 0b1001101010110001 = none ∧ decodeWord 0 = none

/-! ### The tick -/

/-- R77, steps 3 to 5: where the fetch is inside memory and the two bytes at `PC` decode to an instruction, a step is the
instruction's meaning at that state, and then, if it answers a next state, the count-down. -/
def Obligations.StepRunsTheDecodedInstruction : Prop :=
  ∀ (s : State) (i : Instr), Fetchable s →
    decodeWord (joinBytes (s.readByte s.pc.toNat) (s.readByte (s.pc.toNat + 1))) = some i →
    step s = match exec i s with
      | .next t => .next t.countDown
      | .fault e => .fault e
      | .refused r => .refused r

/-- R212 for the fetch (the spec's own decision D1, log 2): under `OOB_POLICY` = `fault` a fetch at 0x0FFF or more raises
`AddressFault` with the lowest address outside memory it would have touched. -/
def Obligations.FetchOutsideMemoryFaults : Prop :=
  ∀ s : State, s.params.oob = .fault → 0x0FFF ≤ s.pc.toNat →
    step s = .fault (.addressFault (if s.pc.toNat = 0x0FFF then s.pc.toNat + 1 else s.pc.toNat))

/-- R210: a fetched word that selects no row of the opcode map raises `UndefinedOp` with the word, and the state is
unchanged; nothing else raises it. -/
def Obligations.IllegalWordRaisesUndefinedOp : Prop :=
  (∀ s : State, Fetchable s → (∀ r ∈ opcodeTable, r.selects s.fetchWord = false) →
    step s = .fault (.undefinedOp s.fetchWord) ∧ tick s = (.raised (.undefinedOp s.fetchWord), s)) ∧
    ∀ (s : State) (w : Word), step s = .fault (.undefinedOp w) → w = s.fetchWord ∧ ∀ r ∈ opcodeTable, r.selects w = false

/-- R211: 00EE on an empty stack raises `PoppedEmptyStack`, the state is unchanged, and no other instruction raises it. -/
def Obligations.ReturnOnEmptyStackRaises : Prop :=
  (∀ s : State, Fetchable s → decodeWord s.fetchWord = some .ret → s.sp = 0 →
      step s = .fault .poppedEmptyStack ∧ tick s = (.raised .poppedEmptyStack, s)) ∧
    ∀ (i : Instr) (s : State), exec i s = .fault .poppedEmptyStack → i = .ret ∧ s.sp = 0

/-- R220: every tick that ends `Ok` counts both timers down by one from what the instruction left, saturating at 0, and
changes nothing else beside. (That a waiting FX0A is such a tick is the spec's own decision D5, log 17.) -/
def Obligations.OkTickCountsBothTimersDown : Prop :=
  ∀ s t : State, step s = .next t →
    ∃ i u, decodeWord s.fetchWord = some i ∧ exec i s = .next u ∧ t.dt.toNat = u.dt.toNat - 1 ∧
      t.st.toNat = u.st.toNat - 1 ∧ t.pc = u.pc ∧ RegsSameBut [] u t ∧ SameBut [.dt, .st] u t

/-- R215, R217: a tick whose result is not `Ok` leaves the whole state as it was, and the next tick repeats it. (For the
spec's own two faults this is its decision D27, log 19.) -/
def Obligations.FailingTickLeavesTheState : Prop :=
  ∀ (s t : State) (r : TickResult), tick s = (r, t) → r ≠ .ok → t = s ∧ tick t = (r, t)

/-- R225, R226: every tick ends `Ok` or in a raise; the model refuses no step. -/
def Obligations.NoStepIsRefused : Prop := ∀ (s : State) (r : Refusal), step s ≠ .refused r

/-- R216, R214: exactly when an instruction completes. 00EE needs an entry, 2NNN a free place, an instruction that touches
memory its whole range, an instruction that adds to `I` no forbidden carry; nothing else stops any of the 34. (The
memory, stack and carry conditions are D1, D2 and D3; log 2, 3, 4.) -/
def Obligations.InstructionsCompleteExactlyWhen : Prop :=
  ∀ (i : Instr) (s : State), (∃ t, exec i s = .next t) ↔
    (i = .ret → s.sp ≠ 0) ∧ (∀ nnn, i = .call nnn → s.sp ≠ s.params.stackDepth) ∧
      Accessible s (dataLength s i) ∧ IndexCanAdd s (indexAddend s i)

/-- R212 for the data accesses (D1, log 2): an instruction whose range passes 0x0FFF raises `AddressFault(max(I, 0x1000))`
before anything else, under `OOB_POLICY` = `fault`. -/
def Obligations.DataAccessOutsideMemoryFaults : Prop :=
  ∀ (i : Instr) (s : State), s.params.oob = .fault → dataLength s i ≠ 0 → 0x1000 < s.i.toNat + dataLength s i →
    exec i s = .fault (.addressFault (max s.i.toNat 0x1000))

/-- R55, R212 (D1, log 2): the address of an `AddressFault` is the lowest address outside memory of the access. -/
def Obligations.FaultAddressIsTheLowestOutside : Prop :=
  ∀ (p : Params) (base len a : Nat), accessFault p base len = some a →
    base ≤ a ∧ a < base + len ∧ 0x1000 ≤ a ∧ ∀ b, base ≤ b → b < a → b < 0x1000

/-! ### Invariants and whole-machine rules -/

/-- Every step keeps the invariant: admissible parameters, memory in canonical form below 4096, at most `STACK_DEPTH`
entries on the stack (a bound of the spec's own decision D2, log 3). -/
def Obligations.StepKeepsTheInvariant : Prop := ∀ s t : State, s.Inv → step s = .next t → t.Inv

/-- The invariant holds after reset, and after `initialize` with any admissible parameters and any seed. -/
def Obligations.ResetMeetsTheInvariant : Prop :=
  State.reset.Inv ∧ ∀ (p : Params) (seed : Quad), p.wf = true → (State.initial p seed).Inv

/-- R227: whatever port calls the host makes after `initialize`, in whatever order, the invariant holds. -/
def Obligations.EveryReachableStateMeetsTheInvariant : Prop := ∀ s : State, Reachable s → s.Inv

/-- R21, R24, R26, R27, R30 to R33: an instruction changes no register and no other item but those the spec's tables say it
writes. -/
def Obligations.InstructionsChangeOnlyWhatTheyWrite : Prop :=
  ∀ (i : Instr) (s t : State), exec i s = .next t →
    RegsSameBut (writtenRegs i) s t ∧ SameBut (writtenItems i) s t

/-- R31, R225: no tick changes the key mask. -/
def Obligations.NoTickChangesTheKeyMask : Prop := ∀ s : State, (tick s).2.keys = s.keys

/-- R22: an instruction that writes `VF` as a flag leaves 0 or 1 in it; DXYN does when it draws a row. -/
def Obligations.FlagsAreZeroOrOne : Prop :=
  ∀ (i : Instr) (s t : State), exec i s = .next t →
    (∃ x y, i = .orReg x y ∨ i = .andReg x y ∨ i = .xorReg x y ∨ i = .addReg x y ∨ i = .subReg x y ∨ i = .shrReg x y ∨
      i = .subnReg x y ∨ i = .shlReg x y ∨ ∃ n, i = .drw x y n ∧ dataLength s i ≠ 0) →
    t.reg vf = 0 ∨ t.reg vf = 1

/-- Two memories in canonical form that read alike are the same list. (The listing is the model's own representation.) -/
def Obligations.CanonicalMemoryIsDetermined : Prop :=
  ∀ (p : Params) (m m' : Memory), Memory.wf p m = true → Memory.wf p m' = true →
    (∀ a, a < 0x1000 → memRead p m a = memRead p m' a) → m = m'

/-- R52, R53: a store to an address of memory is what a read of it gives, and no other byte changes, nor anything else. -/
def Obligations.StoreThenReadGivesTheByte : Prop :=
  ∀ (s : State) (a : Nat) (b : Byte), a < 0x1000 →
    (s.writeByte a b).readByte a = b ∧ (∀ c, c < 0x1000 → c ≠ a → (s.writeByte a b).readByte c = s.readByte c) ∧
      RegsSameBut [] s (s.writeByte a b) ∧ SameBut [.mem] s (s.writeByte a b) ∧ (s.writeByte a b).pc = s.pc

/-! ### Control transfer (40_flow.md) -/

/-- R102, with its encoding. -/
def Obligations.JumpSetsThePc : Prop :=
  ∀ (nnn : Addr12) (s : State), decodeWord (wordNNN 0x1 nnn) = some (.jp nnn) ∧ ∃ t, exec (.jp nnn) s = .next t ∧ t.pc.toNat = nnn.toNat ∧
    RegsSameBut [] s t ∧ SameBut [] s t

/-- R103: the call pushes the address of the word after it. On a full stack it raises `StackOverflow` (the bound is the
spec's own decision D2, log 3). -/
def Obligations.CallPushesTheReturnAddress : Prop :=
  ∀ (nnn : Addr12) (s : State),
    (s.sp ≠ s.params.stackDepth → ∃ t, exec (.call nnn) s = .next t ∧ t.pc.toNat = nnn.toNat ∧
      t.stack = s.stack ++ [s.pc + 2] ∧ RegsSameBut [] s t ∧ SameBut [.stack] s t) ∧
    (s.sp = s.params.stackDepth → exec (.call nnn) s = .fault .stackOverflow)

/-- R101, with R29: the return takes the newest entry as it stands, and the entry is gone; on an empty stack it raises, and
nothing changes. -/
def Obligations.ReturnPopsTheNewestEntry : Prop :=
  decodeWord 0x00EE = some .ret ∧ ∀ s : State,
    (∀ l a, s.stack = l ++ [a] → ∃ t, exec .ret s = .next t ∧ t.pc = a ∧ t.stack = l ∧
      RegsSameBut [] s t ∧ SameBut [.stack] s t) ∧
    (s.stack = [] → exec .ret s = .fault .poppedEmptyStack ∧
      (Fetchable s → decodeWord s.fetchWord = some .ret → tick s = (.raised .poppedEmptyStack, s)))

/-- R101, R103: a return from a state whose stack is as the call left it goes to the word after the call, and leaves the
stack as it was before the call. -/
def Obligations.CallThenReturnComesBack : Prop :=
  ∀ (nnn : Addr12) (s t u : State), exec (.call nnn) s = .next t → u.stack = t.stack →
    ∃ v, exec .ret u = .next v ∧ v.pc = s.pc + 2 ∧ v.stack = s.stack

/-- R104: the sum of `nnn` and `V[0]`, not reduced (that it is not masked to 12 bits is the spec's own decision D19,
log 21). -/
def Obligations.JumpWithOffsetAddsRegisterZero : Prop :=
  ∀ (nnn : Addr12) (s : State), ∃ t, exec (.jpV0 nnn) s = .next t ∧ t.pc.toNat = nnn.toNat + (s.reg 0).toNat ∧
    RegsSameBut [] s t ∧ SameBut [] s t

/-- R105 to R108: the four skips, with their encodings. -/
def Obligations.SkipsFollowTheirComparisons : Prop :=
  ∀ (x y : Reg) (kk : Byte) (s : State),
    (decodeWord (wordXKK 0x3 x kk) = some (.seImm x kk) ∧ decodeWord (wordXKK 0x4 x kk) = some (.sneImm x kk) ∧
      decodeWord (wordXYN 0x5 x y 0) = some (.seReg x y) ∧ decodeWord (wordXYN 0x9 x y 0) = some (.sneReg x y) ∧
      ∀ n, n ≠ 0 → decodeWord (wordXYN 0x5 x y n) = none ∧ decodeWord (wordXYN 0x9 x y n) = none) ∧
    (∃ t, exec (.seImm x kk) s = .next t ∧ t.pc = s.pc + (if s.reg x = kk then 4 else 2) ∧
      RegsSameBut [] s t ∧ SameBut [] s t) ∧
    (∃ t, exec (.sneImm x kk) s = .next t ∧ t.pc = s.pc + (if s.reg x = kk then 2 else 4) ∧
      RegsSameBut [] s t ∧ SameBut [] s t) ∧
    (∃ t, exec (.seReg x y) s = .next t ∧ t.pc = s.pc + (if s.reg x = s.reg y then 4 else 2) ∧
      RegsSameBut [] s t ∧ SameBut [] s t) ∧
    ∃ t, exec (.sneReg x y) s = .next t ∧ t.pc = s.pc + (if s.reg x = s.reg y then 2 else 4) ∧
      RegsSameBut [] s t ∧ SameBut [] s t

/-! ### Register load and arithmetic (41_alu.md) -/

/-- R120 to R122: load, wrapping add, copy; no flag. With their encodings. -/
def Obligations.LoadAddCopyWriteTheDestination : Prop :=
  ∀ (x y : Reg) (kk : Byte) (s : State),
    (decodeWord (wordXKK 0x6 x kk) = some (.ldImm x kk) ∧ decodeWord (wordXKK 0x7 x kk) = some (.addImm x kk) ∧
      decodeWord (wordXYN 0x8 x y 0) = some (.ldReg x y)) ∧
    (∃ t, exec (.ldImm x kk) s = .next t ∧ t.reg x = kk ∧ t.pc = s.pc + 2 ∧ RegsSameBut [x] s t ∧ SameBut [] s t) ∧
    (∃ t, exec (.addImm x kk) s = .next t ∧ (t.reg x).toNat = ((s.reg x).toNat + kk.toNat) % 256 ∧ t.pc = s.pc + 2 ∧
      RegsSameBut [x] s t ∧ SameBut [] s t) ∧
    ∃ t, exec (.ldReg x y) s = .next t ∧ t.reg x = s.reg y ∧ t.pc = s.pc + 2 ∧ RegsSameBut [x] s t ∧ SameBut [] s t

/-- R123 to R125: the logical operations clear `VF` after the result (that the flag stays when `x` = 15 is the spec's own
decision D10, log 16). -/
def Obligations.LogicalOperationsClearTheFlag : Prop :=
  ∀ (x y : Reg) (s : State),
    (∃ t, exec (.orReg x y) s = .next t ∧ (x ≠ 15 → t.reg x = s.reg x ||| s.reg y) ∧ t.reg 15 = 0 ∧ t.pc = s.pc + 2 ∧
      RegsSameBut [x, 15] s t ∧ SameBut [] s t) ∧
    (∃ t, exec (.andReg x y) s = .next t ∧ (x ≠ 15 → t.reg x = s.reg x &&& s.reg y) ∧ t.reg 15 = 0 ∧ t.pc = s.pc + 2 ∧
      RegsSameBut [x, 15] s t ∧ SameBut [] s t) ∧
    ∃ t, exec (.xorReg x y) s = .next t ∧ (x ≠ 15 → t.reg x = s.reg x ^^^ s.reg y) ∧ t.reg 15 = 0 ∧ t.pc = s.pc + 2 ∧
      RegsSameBut [x, 15] s t ∧ SameBut [] s t

/-- R126, R127, R129: the sum and the two differences modulo 256, with the carry and the strict comparison in `VF`
(`x` = 15: the spec's own decision D10, log 16). -/
def Obligations.AdditionAndSubtractionSetTheFlag : Prop :=
  ∀ (x y : Reg) (s : State),
    (∃ t, exec (.addReg x y) s = .next t ∧
      (x ≠ 15 → (t.reg x).toNat = ((s.reg x).toNat + (s.reg y).toNat) % 256) ∧
      t.reg 15 = (if (s.reg x).toNat + (s.reg y).toNat > 255 then 1 else 0) ∧ t.pc = s.pc + 2 ∧
      RegsSameBut [x, 15] s t ∧ SameBut [] s t) ∧
    (∃ t, exec (.subReg x y) s = .next t ∧
      (x ≠ 15 → ((t.reg x).toNat : Int) = ((s.reg x).toNat - (s.reg y).toNat) % 256) ∧
      t.reg 15 = (if (s.reg x).toNat > (s.reg y).toNat then 1 else 0) ∧ t.pc = s.pc + 2 ∧
      RegsSameBut [x, 15] s t ∧ SameBut [] s t) ∧
    ∃ t, exec (.subnReg x y) s = .next t ∧
      (x ≠ 15 → ((t.reg x).toNat : Int) = ((s.reg y).toNat - (s.reg x).toNat) % 256) ∧
      t.reg 15 = (if (s.reg y).toNat > (s.reg x).toNat then 1 else 0) ∧ t.pc = s.pc + 2 ∧
      RegsSameBut [x, 15] s t ∧ SameBut [] s t

/-- R128, R130: the shifts take `V[y]`, move one position, and leave the bit shifted out in `VF` (`x` = 15: the spec's own
decision D10, log 16). -/
def Obligations.ShiftsTakeTheSecondRegister : Prop :=
  ∀ (x y : Reg) (s : State),
    (∃ t, exec (.shrReg x y) s = .next t ∧ (x ≠ 15 → (t.reg x).toNat = (s.reg y).toNat / 2) ∧
      (t.reg 15).toNat = (s.reg y).toNat % 2 ∧ t.pc = s.pc + 2 ∧ RegsSameBut [x, 15] s t ∧ SameBut [] s t) ∧
    ∃ t, exec (.shlReg x y) s = .next t ∧ (x ≠ 15 → (t.reg x).toNat = (s.reg y).toNat * 2 % 256) ∧
      (t.reg 15).toNat = (s.reg y).toNat / 128 ∧ t.pc = s.pc + 2 ∧ RegsSameBut [x, 15] s t ∧ SameBut [] s t

/-! ### Index register, loads and stores (42_index_memory.md) -/

/-- R151, R153, with their encodings. -/
def Obligations.IndexLoadsSetTheIndex : Prop :=
  ∀ (nnn : Addr12) (x : Reg) (s : State),
    (decodeWord (wordNNN 0xA nnn) = some (.ldI nnn) ∧ decodeWord (wordXKK 0xF x 0x29) = some (.ldGlyph x)) ∧
    (∃ t, exec (.ldI nnn) s = .next t ∧ t.i.toNat = nnn.toNat ∧ t.pc = s.pc + 2 ∧ RegsSameBut [] s t ∧ SameBut [.i] s t) ∧
    ∃ t, exec (.ldGlyph x) s = .next t ∧ t.i.toNat = 5 * (s.reg x).toNat ∧ t.pc = s.pc + 2 ∧
      RegsSameBut [] s t ∧ SameBut [.i] s t

/-- R152: 16 bits, not masked to 12; a carry out of bit 15 wraps or faults as `I_OVERFLOW` says (the spec's own decision
D3, log 4). -/
def Obligations.AddToIndexIsSixteenBits : Prop :=
  ∀ (x : Reg) (s : State),
    (IndexCanAdd s (s.reg x).toNat → ∃ t, exec (.addI x) s = .next t ∧
      t.i.toNat = (s.i.toNat + (s.reg x).toNat) % 65536 ∧ t.pc = s.pc + 2 ∧ RegsSameBut [] s t ∧ SameBut [.i] s t) ∧
    (s.params.iOverflow = .fault → 65536 ≤ s.i.toNat + (s.reg x).toNat → exec (.addI x) s = .fault .indexOverflow)

/-- R154: the three decimal digits, hundreds at `I` (the order is the spec's own decision D8, log 14; the condition on the
range is D1, log 2). -/
def Obligations.DecimalStoreWritesThreeDigits : Prop :=
  ∀ (x : Reg) (s : State), Accessible s 3 →
    ∃ t, exec (.ldBcd x) s = .next t ∧
      (t.readByte (s.dataAddr 0)).toNat = (s.reg x).toNat / 100 ∧
      (t.readByte (s.dataAddr 1)).toNat = (s.reg x).toNat / 10 % 10 ∧
      (t.readByte (s.dataAddr 2)).toNat = (s.reg x).toNat % 10 ∧
      (∀ a, (∀ k, k < 3 → cellOf (s.dataAddr k) ≠ cellOf a) → t.readByte a = s.readByte a) ∧
      t.pc = s.pc + 2 ∧ RegsSameBut [] s t ∧ SameBut [.mem] s t

/-- R155: `V[0]` to `V[x]` from `I` upward, then `I` greater by 1 (the amount is the spec's own decision D9, log 15; the
conditions are D1 and D3, log 2 and 4). -/
def Obligations.RegisterStoreWritesTheRun : Prop :=
  ∀ (x : Reg) (s : State), Accessible s (x.val + 1) → IndexCanAdd s 1 →
    ∃ t, exec (.storeRegs x) s = .next t ∧
      (∀ r : Reg, r ≤ x → t.readByte (s.dataAddr r.val) = s.reg r) ∧
      (∀ a, (∀ k, k ≤ x.val → cellOf (s.dataAddr k) ≠ cellOf a) → t.readByte a = s.readByte a) ∧
      t.i = s.i + 1 ∧ t.pc = s.pc + 2 ∧ RegsSameBut [] s t ∧ SameBut [.mem, .i] s t

/-- R156: `V[0]` to `V[x]` from memory at `I` upward, then `I` greater by 1; the registers above keep their values (D9,
log 15; D1 and D3, log 2 and 4). -/
def Obligations.RegisterLoadReadsTheRun : Prop :=
  ∀ (x : Reg) (s : State), Accessible s (x.val + 1) → IndexCanAdd s 1 →
    ∃ t, exec (.loadRegs x) s = .next t ∧
      (∀ r : Reg, r ≤ x → t.reg r = s.readByte (s.dataAddr r.val)) ∧ (∀ r : Reg, x < r → t.reg r = s.reg r) ∧
      t.i = s.i + 1 ∧ t.pc = s.pc + 2 ∧ SameBut [.i] s t

/-- R155, R156: loading from where a store put a run gives the stored registers back, whatever the registers were
meanwhile. -/
def Obligations.LoadAfterStoreGivesTheRegistersBack : Prop :=
  ∀ (x : Reg) (s t u v : State), exec (.storeRegs x) s = .next t → u.mem = t.mem → u.params = t.params → u.i = s.i →
    exec (.loadRegs x) u = .next v → ∀ r : Reg, r ≤ x → v.reg r = s.reg r

/-- R62: a store into the program is what the very next fetch reads. -/
def Obligations.StoredWordIsFetchedNext : Prop :=
  ∀ (x : Reg) (s t : State), decodeWord s.fetchWord = some (.storeRegs x) → 1 ≤ x.val → step s = .next t → t.pc = s.i →
    t.fetchWord = joinBytes (s.reg 0) (s.reg 1)

/-! ### Framebuffer (43_display.md) -/

/-- R171: all rows zero, as `readFramebuffer` returns them; `VF` is not touched. -/
def Obligations.ClearScreenZeroesEveryRow : Prop :=
  decodeWord 0x00E0 = some .cls ∧ ∀ s : State, ∃ t, exec .cls s = .next t ∧ readFramebuffer t = List.replicate 32 0 ∧ t.pc = s.pc + 2 ∧
    RegsSameBut [] s t ∧ SameBut [.fb] s t

/-- R170: bit `7 - j` of a sprite byte lands in column `cx + j`; what passes column 63 is dropped, and the other columns are
off (the bit order of the byte is the spec's own decision D7, log 13). -/
def Obligations.SpriteLineGeometry : Prop :=
  ∀ (b : Byte) (cx c : Nat), cx < 64 → c < 64 →
    (spriteLine b cx).getLsbD (63 - c) = (decide (cx ≤ c) && decide (c < cx + 8) && b.getLsbD (7 - (c - cx)))

/-- R172: the collision bit is 1 iff at least one pixel that was on is turned off by the exclusive-or, which is the same
as `(old & L) != 0` and as `(old | L) != (old ^ L)`; otherwise it is 0. -/
def Obligations.CollisionIsAPixelTurnedOff : Prop :=
  ∀ old line : Quad,
    collisionFlag old line = (if old &&& line ≠ 0 then 1 else 0) ∧
    (collisionFlag old line = 1 ↔ ∃ k, k < 64 ∧ old.getLsbD k = true ∧ (old ^^^ line).getLsbD k = false) ∧
    (collisionFlag old line = 1 ↔ (old ||| line) ≠ (old ^^^ line))

/-- R173: the drawn rows, the rows left alone, and `VF` as the collision bit of the last row drawn. (That `VF` is not
accumulated is D24, log 18; that it stays when no row is drawn D6, log 12; which bytes must be accessible D1 and D27,
log 2 and 19: the spec's own decisions.) -/
def Obligations.DrawXorsTheClippedSprite : Prop :=
  ∀ (x y : Reg) (n : Nibble) (s : State) (cx cy rows : Nat), cx = (s.reg x).toNat % 64 → cy = (s.reg y).toNat % 32 →
    rows = min n.val (32 - cy) → Accessible s rows →
    ∃ t, exec (.drw x y n) s = .next t ∧
      (∀ r, r < rows → t.row (cy + r) = s.row (cy + r) ^^^ spriteLine (s.readByte (s.dataAddr r)) cx) ∧
      (∀ r, r < cy ∨ cy + rows ≤ r → t.row r = s.row r) ∧
      (rows = 0 → t.reg 15 = s.reg 15) ∧
      (∀ k, rows = k + 1 → t.reg 15 =
        if s.row (cy + k) &&& spriteLine (s.readByte (s.dataAddr k)) cx ≠ 0 then 1 else 0) ∧
      t.pc = s.pc + 2 ∧ RegsSameBut [15] s t ∧ SameBut [.fb] s t

/-- R173: drawing the same sprite twice at one place restores the framebuffer, whatever happened to the rest meanwhile. -/
def Obligations.DrawingTwiceRestoresTheFramebuffer : Prop :=
  ∀ (x y : Reg) (n : Nibble) (s t u v : State), exec (.drw x y n) s = .next t →
    u.fb = t.fb → u.mem = s.mem → u.params = s.params → u.i = s.i → u.reg x = s.reg x → u.reg y = s.reg y →
    exec (.drw x y n) u = .next v → v.fb = s.fb

/-! ### Random, keys, timers (44_timer_key_random.md) -/

/-- R192, with R191: the low byte of the new random state, and `kk`; the state advances once whatever `kk` is. -/
def Obligations.RandomAdvancesOnceAndMasks : Prop :=
  ∀ (x : Reg) (kk : Byte) (s : State), decodeWord (wordXKK 0xC x kk) = some (.rnd x kk) ∧
    ∃ t, exec (.rnd x kk) s = .next t ∧ t.rng = rngStep s.params s.rng ∧ t.reg x = t.rng.extractLsb' 0 8 &&& kk ∧
      t.pc = s.pc + 2 ∧ RegsSameBut [x] s t ∧ SameBut [.rng] s t

/-- R191, derived there from the form of the three steps: 0 is a fixed point for every `RNG_STEP`, so a machine in random
state 0 delivers the byte 0 and stays there. -/
def Obligations.ZeroRandomStateStaysZero : Prop :=
  ∀ (x : Reg) (kk : Byte) (s t : State), s.rng = 0 → exec (.rnd x kk) s = .next t → t.rng = 0 ∧ t.reg x = 0

/-- R193 to R195 (that a key number of 16 or more is never down is the spec's own decision D4, log 11). -/
def Obligations.KeySkipsTestOneKey : Prop :=
  ∀ (x : Reg) (s : State),
    (∃ t, exec (.skp x) s = .next t ∧
      t.pc = s.pc + (if (s.reg x).toNat ≤ 15 ∧ s.keys.getLsbD (s.reg x).toNat = true then 4 else 2) ∧
      RegsSameBut [] s t ∧ SameBut [] s t) ∧
    ∃ t, exec (.sknp x) s = .next t ∧
      t.pc = s.pc + (if (s.reg x).toNat ≤ 15 ∧ s.keys.getLsbD (s.reg x).toNat = true then 2 else 4) ∧
      RegsSameBut [] s t ∧ SameBut [] s t

/-- R196: with no key down nothing changes; with one down the least goes to `V[x]` and the program advances (that the timers
count in both cases is D5, log 17, and stands in OkTickCountsBothTimersDown). -/
def Obligations.KeyWaitReadsTheLowestKey : Prop :=
  ∀ (x : Reg) (s : State),
    (s.keys = 0 → exec (.ldVxKey x) s = .next s) ∧
    ∀ k, k < 16 → s.keys.getLsbD k = true → (∀ j, j < k → s.keys.getLsbD j = false) →
      ∃ t, exec (.ldVxKey x) s = .next t ∧ (t.reg x).toNat = k ∧ t.pc = s.pc + 2 ∧ RegsSameBut [x] s t ∧ SameBut [] s t

/-- R197 to R199, with the count-down of the same tick: FX07 reads `DT` as it was before the tick; FX15 and FX18 leave
`max(V[x] - 1, 0)` in their timer after the tick. With their encodings. -/
def Obligations.TimerInstructionsWithTheCountDown : Prop :=
  ∀ (x : Reg) (s : State),
    (decodeWord (wordXKK 0xF x 0x07) = some (.ldVxDt x) ∧ decodeWord (wordXKK 0xF x 0x15) = some (.ldDtVx x) ∧
      decodeWord (wordXKK 0xF x 0x18) = some (.ldStVx x)) ∧
    (∃ t, exec (.ldVxDt x) s = .next t ∧ t.reg x = s.dt ∧ t.countDown.dt.toNat = s.dt.toNat - 1 ∧ t.pc = s.pc + 2 ∧
      RegsSameBut [x] s t ∧ SameBut [] s t) ∧
    (∃ t, exec (.ldDtVx x) s = .next t ∧ t.dt = s.reg x ∧ t.countDown.dt.toNat = (s.reg x).toNat - 1 ∧ t.pc = s.pc + 2 ∧
      RegsSameBut [] s t ∧ SameBut [.dt] s t) ∧
    ∃ t, exec (.ldStVx x) s = .next t ∧ t.st = s.reg x ∧ t.countDown.st.toNat = (s.reg x).toNat - 1 ∧ t.pc = s.pc + 2 ∧
      RegsSameBut [] s t ∧ SameBut [.st] s t

/-- R30, R199: nothing ever reads `ST`. Two states that differ in `ST` alone answer every tick alike, and differ in `ST` alone
after it. -/
def Obligations.SoundTimerIsNeverRead : Prop :=
  ∀ (s : State) (b : Byte), (tick (s.setSt b)).1 = (tick s).1 ∧ ∃ c, (tick (s.setSt b)).2 = (tick s).2.setSt c

/-- R221, derived there: an FX07 `k + 1` ticks after an FX15 with value `v` reads `max(v - (k + 1), 0)`, if no tick between
executes an FX15. -/
def Obligations.DelayTimerMeasuresTicks : Prop :=
  ∀ (x y : Reg) (k : Nat) (s t u v : State), decodeWord s.fetchWord = some (.ldDtVx x) → step s = .next t →
    TicksNotSettingDelay k t u → decodeWord u.fetchWord = some (.ldVxDt y) → step u = .next v →
    (v.reg y).toNat = (s.reg x).toNat - (k + 1)

/-- R246 (b): from a self-jump every further tick is `Ok` and changes only `DT` and `ST`. -/
def Obligations.SelfJumpIsAnEnd : Prop :=
  ∀ (s : State) (k : Nat), s.AtSelfJump →
    ∃ t, SafeTicks k s t ∧ t.AtSelfJump ∧ t.pc = s.pc ∧ RegsSameBut [] s t ∧ SameBut [.dt, .st] s t ∧
      t.dt.toNat = s.dt.toNat - k ∧ t.st.toNat = s.st.toNat - k

/-! ### The host ports (60_exceptions.md, 70_reset_and_hazards.md) -/

/-- R241: the bytes from 0x200 upward, `PC` = 0x200, and nothing else. -/
def Obligations.LoadProgramCopiesTheBytes : Prop :=
  ∀ (bytes : List Byte) (s : State), bytes.length ≤ 3584 →
    ∃ t, loadProgram bytes s = .next t ∧ t.pc = 0x200 ∧
      (∀ j (h : j < bytes.length), t.readByte (0x200 + j) = bytes[j]) ∧
      (∀ a, a < 0x200 ∨ 0x200 + bytes.length ≤ a → a < 0x1000 → t.readByte a = s.readByte a) ∧
      RegsSameBut [] s t ∧ SameBut [.mem] s t

/-- R242 (that a longer load is refused is the spec's own decision D15, log 20). -/
def Obligations.TooLongProgramIsRefused : Prop :=
  ∀ (bytes : List Byte) (s : State), 3584 < bytes.length →
    loadProgram bytes s = .refused (.programTooLong bytes.length)

/-- R228, R229: one bit set or cleared, the other 15 kept, and nothing else changed. (That the argument is a 4-bit value is
the spec's own decision D14.) -/
def Obligations.KeyPortsChangeOneBit : Prop :=
  ∀ (k : Nibble) (s : State),
    (∀ j, j < 16 → (pressKey k s).keys.getLsbD j = (if j = k.val then true else s.keys.getLsbD j)) ∧
    (∀ j, j < 16 → (releaseKey k s).keys.getLsbD j = (if j = k.val then false else s.keys.getLsbD j)) ∧
    RegsSameBut [] s (pressKey k s) ∧ SameBut [.keys] s (pressKey k s) ∧ (pressKey k s).pc = s.pc ∧
    RegsSameBut [] s (releaseKey k s) ∧ SameBut [.keys] s (releaseKey k s) ∧ (releaseKey k s).pc = s.pc

/-- R36, R240: the values after `initialize(seed)`. (`KEYS` = 0 is the spec's own decision D11, log 10.) -/
def Obligations.InitializeGivesTheResetValues : Prop :=
  ∀ (p : Params) (seed : Quad), p.wf = true →
    let s := State.initial p seed
    (∀ r, s.reg r = 0) ∧ s.pc = 0 ∧ s.i = 0 ∧ s.sp = 0 ∧ s.dt = 0 ∧ s.st = 0 ∧ s.keys = 0 ∧ s.rng = seed ∧
      (∀ r, r < 32 → s.row r = 0) ∧ (∀ a, a < 80 → some (s.readByte a) = p.glyphRom[a]?) ∧
      (∀ a, 80 ≤ a → a < 0x1000 → s.readByte a = 0) ∧
      s.readBytes 0 5 = [0xF0, 0x90, 0x90, 0x90, 0xF0]

/-- R245, derived there: a tick before any load fetches the first two glyph bytes and raises `UndefinedOp(0xF090)`, whatever
the parameters and the seed. (That the rules apply as they stand there is the spec's own decision D16, log 27.) -/
def Obligations.TickBeforeLoadRaisesUndefinedOp : Prop :=
  ∀ (p : Params) (seed : Quad), p.wf = true →
    tick (State.initial p seed) = (.raised (.undefinedOp 0xF090), State.initial p seed)

/-- An instruction placed by `withFetchWord` is what the very next step runs; no byte but the two at the new `PC` and no
other item is changed, nor `PC` where the fetch is inside memory. (`withFetchWord` is the model's own, log 8 and 9.) -/
def Obligations.PlacedWordIsTheNextInstruction : Prop :=
  ∀ (i : Instr) (s : State), let t := s.withFetchWord 16 (encode i).toNat
    step t = finishTick (exec i t) ∧ RegsSameBut [] s t ∧ SameBut [.mem] s t ∧
      (∀ a, cellOf a ≠ cellOf t.pc.toNat → cellOf a ≠ cellOf (t.pc.toNat + 1) → t.readByte a = s.readByte a) ∧
      (Fetchable s → t.pc = s.pc)
end

