-- ==== Sys2Proof/Laws/Encoding.lean ====
section
/-!
SUPPORT. The fields of a word as numbers, the fields of the encoder's forms, and the masks of the opcode map as
conditions on fields.
-/

namespace Sys2Proof

/-! ### Fields as numbers (00_scope.md R8) -/

theorem fieldOp_eq (w : Word) : fieldOp w = w.toNat / 0x1000 % 16 := by
  simp [fieldOp, BitVec.extractLsb'_toNat, Nat.shiftRight_eq_div_pow]

theorem fieldX_val (w : Word) : (fieldX w).val = w.toNat / 0x100 % 16 := by
  show (w.extractLsb' 8 4).toNat = _
  simp [BitVec.extractLsb'_toNat, Nat.shiftRight_eq_div_pow]

theorem fieldY_val (w : Word) : (fieldY w).val = w.toNat / 0x10 % 16 := by
  show (w.extractLsb' 4 4).toNat = _
  simp [BitVec.extractLsb'_toNat, Nat.shiftRight_eq_div_pow]

theorem fieldN_val (w : Word) : (fieldN w).val = w.toNat % 16 := by
  show (w.extractLsb' 0 4).toNat = _
  simp [BitVec.extractLsb'_toNat]

theorem fieldKK_toNat (w : Word) : (fieldKK w).toNat = w.toNat % 256 := by
  simp [fieldKK, BitVec.extractLsb'_toNat]

theorem fieldNNN_toNat (w : Word) : (fieldNNN w).toNat = w.toNat % 4096 := by
  simp [fieldNNN, BitVec.extractLsb'_toNat]

/-! ### The encoder's forms as numbers (30_encoding.md R71) -/

theorem formNNN_toNat {op : Nat} (nnn : Addr12) (h : op < 16) : (formNNN op nnn).toNat = op * 0x1000 + nnn.toNat := by
  have := nnn.isLt
  simp only [formNNN, BitVec.toNat_ofNat]
  omega

theorem formXKK_toNat {op : Nat} (x : Reg) (kk : Byte) (h : op < 16) :
    (formXKK op x kk).toNat = op * 0x1000 + x.val * 0x100 + kk.toNat := by
  have := x.isLt
  have := kk.isLt
  simp only [formXKK, BitVec.toNat_ofNat]
  omega

theorem formXYN_toNat {op n : Nat} (x y : Reg) (h : op < 16) (hn : n < 16) :
    (formXYN op x y n).toNat = op * 0x1000 + x.val * 0x100 + y.val * 0x10 + n := by
  have := x.isLt
  have := y.isLt
  simp only [formXYN, BitVec.toNat_ofNat]
  omega

theorem formX_toNat {op fn : Nat} (x : Reg) (h : op < 16) (hf : fn < 256) :
    (formX op x fn).toNat = op * 0x1000 + x.val * 0x100 + fn := by
  have := x.isLt
  simp only [formX, BitVec.toNat_ofNat]
  omega

/-! ### Masks as fields (30_encoding.md R74) -/

/-- Two halves of a word. -/
theorem toNat_append_word {m n : Nat} (a : BitVec m) (b : BitVec n) : (a ++ b).toNat = a.toNat * 2 ^ n + b.toNat := by
  rw [BitVec.toNat_append, ← Nat.shiftLeft_add_eq_or_of_lt b.isLt, Nat.shiftLeft_eq]

/-- The mask 0xF000 keeps `op`. -/
theorem and_maskOp (w : Word) : (w &&& 0xF000).toNat = fieldOp w * 0x1000 := by
  have h : w &&& 0xF000 = w.extractLsb' 12 4 ++ (0 : BitVec 12) := by
    apply BitVec.eq_of_getLsbD_eq
    intro i hi
    simp only [BitVec.getLsbD_and, BitVec.getLsbD_append, BitVec.getLsbD_extractLsb']
    interval_cases i <;> simp
  rw [h, toNat_append_word]
  show fieldOp w * 4096 + 0 = fieldOp w * 4096
  omega

/-- The mask 0xF00F keeps `op` and `n`. -/
theorem and_maskOpN (w : Word) : (w &&& 0xF00F).toNat = fieldOp w * 0x1000 + (fieldN w).val := by
  have h : w &&& 0xF00F = (w.extractLsb' 12 4 ++ (0 : BitVec 8)) ++ w.extractLsb' 0 4 := by
    apply BitVec.eq_of_getLsbD_eq
    intro i hi
    simp only [BitVec.getLsbD_and, BitVec.getLsbD_append, BitVec.getLsbD_extractLsb']
    interval_cases i <;> simp
  rw [h, toNat_append_word, toNat_append_word]
  show (fieldOp w * 256 + 0) * 16 + (fieldN w).val = _
  omega

/-- The mask 0xF0FF keeps `op` and `kk`. -/
theorem and_maskOpKK (w : Word) : (w &&& 0xF0FF).toNat = fieldOp w * 0x1000 + (fieldKK w).toNat := by
  have h : w &&& 0xF0FF = (w.extractLsb' 12 4 ++ (0 : BitVec 4)) ++ w.extractLsb' 0 8 := by
    apply BitVec.eq_of_getLsbD_eq
    intro i hi
    simp only [BitVec.getLsbD_and, BitVec.getLsbD_append, BitVec.getLsbD_extractLsb']
    interval_cases i <;> simp
  rw [h, toNat_append_word, toNat_append_word]
  show (fieldOp w * 16 + 0) * 256 + (fieldKK w).toNat = _
  omega

/-- A row that fixes `op` alone. -/
theorem selects_op (w pattern : Word) : (OpcodeRow.selects ⟨0xF000, pattern⟩ w) = decide (fieldOp w * 0x1000 = pattern.toNat) := by
  rw [OpcodeRow.selects, decide_eq_decide, ← and_maskOp, BitVec.toNat_inj]

/-- A row that fixes `op` and the function nibble. -/
theorem selects_opN (w pattern : Word) :
    (OpcodeRow.selects ⟨0xF00F, pattern⟩ w) = decide (fieldOp w * 0x1000 + (fieldN w).val = pattern.toNat) := by
  rw [OpcodeRow.selects, decide_eq_decide, ← and_maskOpN, BitVec.toNat_inj]

/-- A row that fixes `op` and the function byte. -/
theorem selects_opKK (w pattern : Word) :
    (OpcodeRow.selects ⟨0xF0FF, pattern⟩ w) = decide (fieldOp w * 0x1000 + (fieldKK w).toNat = pattern.toNat) := by
  rw [OpcodeRow.selects, decide_eq_decide, ← and_maskOpKK, BitVec.toNat_inj]

/-! ### Bytes of a word (20_memory.md R54) -/

/-- The two bytes of a word, joined again. -/
theorem joinBytes_high_low (w : Word) : joinBytes (highByte w) (lowByte w) = w := by
  apply BitVec.eq_of_toNat_eq
  rw [joinBytes, toNat_append_word, highByte, lowByte, BitVec.extractLsb'_toNat, BitVec.extractLsb'_toNat]
  have := w.isLt
  simp only [Nat.shiftRight_eq_div_pow]
  omega

end Sys2Proof
end

