-- ==== Sys2Proof/Laws/State.lean ====
section
/-!
SUPPORT. One lemma per field per update of the state, true by rfl and in the simp set, so that no later proof unfolds
a record update. The first part is about the setters of Machine/Ops.lean, the second about the operations built on
them, the third about the accessors.
-/

namespace Sys2Proof.Machine

/-! ### Setters -/

@[simp] theorem State.setV_v (s : State) (a : Vector Byte 16) : (s.setV a).v = a := rfl
@[simp] theorem State.setV_pc (s : State) (a : Vector Byte 16) : (s.setV a).pc = s.pc := rfl
@[simp] theorem State.setV_mem (s : State) (a : Vector Byte 16) : (s.setV a).mem = s.mem := rfl
@[simp] theorem State.setV_i (s : State) (a : Vector Byte 16) : (s.setV a).i = s.i := rfl
@[simp] theorem State.setV_stack (s : State) (a : Vector Byte 16) : (s.setV a).stack = s.stack := rfl
@[simp] theorem State.setV_dt (s : State) (a : Vector Byte 16) : (s.setV a).dt = s.dt := rfl
@[simp] theorem State.setV_st (s : State) (a : Vector Byte 16) : (s.setV a).st = s.st := rfl
@[simp] theorem State.setV_keys (s : State) (a : Vector Byte 16) : (s.setV a).keys = s.keys := rfl
@[simp] theorem State.setV_rng (s : State) (a : Vector Byte 16) : (s.setV a).rng = s.rng := rfl
@[simp] theorem State.setV_fb (s : State) (a : Vector Byte 16) : (s.setV a).fb = s.fb := rfl
@[simp] theorem State.setV_params (s : State) (a : Vector Byte 16) : (s.setV a).params = s.params := rfl

@[simp] theorem State.setPc_v (s : State) (a : Word) : (s.setPc a).v = s.v := rfl
@[simp] theorem State.setPc_pc (s : State) (a : Word) : (s.setPc a).pc = a := rfl
@[simp] theorem State.setPc_mem (s : State) (a : Word) : (s.setPc a).mem = s.mem := rfl
@[simp] theorem State.setPc_i (s : State) (a : Word) : (s.setPc a).i = s.i := rfl
@[simp] theorem State.setPc_stack (s : State) (a : Word) : (s.setPc a).stack = s.stack := rfl
@[simp] theorem State.setPc_dt (s : State) (a : Word) : (s.setPc a).dt = s.dt := rfl
@[simp] theorem State.setPc_st (s : State) (a : Word) : (s.setPc a).st = s.st := rfl
@[simp] theorem State.setPc_keys (s : State) (a : Word) : (s.setPc a).keys = s.keys := rfl
@[simp] theorem State.setPc_rng (s : State) (a : Word) : (s.setPc a).rng = s.rng := rfl
@[simp] theorem State.setPc_fb (s : State) (a : Word) : (s.setPc a).fb = s.fb := rfl
@[simp] theorem State.setPc_params (s : State) (a : Word) : (s.setPc a).params = s.params := rfl

@[simp] theorem State.setMem_v (s : State) (a : Memory) : (s.setMem a).v = s.v := rfl
@[simp] theorem State.setMem_pc (s : State) (a : Memory) : (s.setMem a).pc = s.pc := rfl
@[simp] theorem State.setMem_mem (s : State) (a : Memory) : (s.setMem a).mem = a := rfl
@[simp] theorem State.setMem_i (s : State) (a : Memory) : (s.setMem a).i = s.i := rfl
@[simp] theorem State.setMem_stack (s : State) (a : Memory) : (s.setMem a).stack = s.stack := rfl
@[simp] theorem State.setMem_dt (s : State) (a : Memory) : (s.setMem a).dt = s.dt := rfl
@[simp] theorem State.setMem_st (s : State) (a : Memory) : (s.setMem a).st = s.st := rfl
@[simp] theorem State.setMem_keys (s : State) (a : Memory) : (s.setMem a).keys = s.keys := rfl
@[simp] theorem State.setMem_rng (s : State) (a : Memory) : (s.setMem a).rng = s.rng := rfl
@[simp] theorem State.setMem_fb (s : State) (a : Memory) : (s.setMem a).fb = s.fb := rfl
@[simp] theorem State.setMem_params (s : State) (a : Memory) : (s.setMem a).params = s.params := rfl

@[simp] theorem State.setI_v (s : State) (a : Word) : (s.setI a).v = s.v := rfl
@[simp] theorem State.setI_pc (s : State) (a : Word) : (s.setI a).pc = s.pc := rfl
@[simp] theorem State.setI_mem (s : State) (a : Word) : (s.setI a).mem = s.mem := rfl
@[simp] theorem State.setI_i (s : State) (a : Word) : (s.setI a).i = a := rfl
@[simp] theorem State.setI_stack (s : State) (a : Word) : (s.setI a).stack = s.stack := rfl
@[simp] theorem State.setI_dt (s : State) (a : Word) : (s.setI a).dt = s.dt := rfl
@[simp] theorem State.setI_st (s : State) (a : Word) : (s.setI a).st = s.st := rfl
@[simp] theorem State.setI_keys (s : State) (a : Word) : (s.setI a).keys = s.keys := rfl
@[simp] theorem State.setI_rng (s : State) (a : Word) : (s.setI a).rng = s.rng := rfl
@[simp] theorem State.setI_fb (s : State) (a : Word) : (s.setI a).fb = s.fb := rfl
@[simp] theorem State.setI_params (s : State) (a : Word) : (s.setI a).params = s.params := rfl

@[simp] theorem State.setStack_v (s : State) (a : List Word) : (s.setStack a).v = s.v := rfl
@[simp] theorem State.setStack_pc (s : State) (a : List Word) : (s.setStack a).pc = s.pc := rfl
@[simp] theorem State.setStack_mem (s : State) (a : List Word) : (s.setStack a).mem = s.mem := rfl
@[simp] theorem State.setStack_i (s : State) (a : List Word) : (s.setStack a).i = s.i := rfl
@[simp] theorem State.setStack_stack (s : State) (a : List Word) : (s.setStack a).stack = a := rfl
@[simp] theorem State.setStack_dt (s : State) (a : List Word) : (s.setStack a).dt = s.dt := rfl
@[simp] theorem State.setStack_st (s : State) (a : List Word) : (s.setStack a).st = s.st := rfl
@[simp] theorem State.setStack_keys (s : State) (a : List Word) : (s.setStack a).keys = s.keys := rfl
@[simp] theorem State.setStack_rng (s : State) (a : List Word) : (s.setStack a).rng = s.rng := rfl
@[simp] theorem State.setStack_fb (s : State) (a : List Word) : (s.setStack a).fb = s.fb := rfl
@[simp] theorem State.setStack_params (s : State) (a : List Word) : (s.setStack a).params = s.params := rfl

@[simp] theorem State.setDt_v (s : State) (a : Byte) : (s.setDt a).v = s.v := rfl
@[simp] theorem State.setDt_pc (s : State) (a : Byte) : (s.setDt a).pc = s.pc := rfl
@[simp] theorem State.setDt_mem (s : State) (a : Byte) : (s.setDt a).mem = s.mem := rfl
@[simp] theorem State.setDt_i (s : State) (a : Byte) : (s.setDt a).i = s.i := rfl
@[simp] theorem State.setDt_stack (s : State) (a : Byte) : (s.setDt a).stack = s.stack := rfl
@[simp] theorem State.setDt_dt (s : State) (a : Byte) : (s.setDt a).dt = a := rfl
@[simp] theorem State.setDt_st (s : State) (a : Byte) : (s.setDt a).st = s.st := rfl
@[simp] theorem State.setDt_keys (s : State) (a : Byte) : (s.setDt a).keys = s.keys := rfl
@[simp] theorem State.setDt_rng (s : State) (a : Byte) : (s.setDt a).rng = s.rng := rfl
@[simp] theorem State.setDt_fb (s : State) (a : Byte) : (s.setDt a).fb = s.fb := rfl
@[simp] theorem State.setDt_params (s : State) (a : Byte) : (s.setDt a).params = s.params := rfl

@[simp] theorem State.setSt_v (s : State) (a : Byte) : (s.setSt a).v = s.v := rfl
@[simp] theorem State.setSt_pc (s : State) (a : Byte) : (s.setSt a).pc = s.pc := rfl
@[simp] theorem State.setSt_mem (s : State) (a : Byte) : (s.setSt a).mem = s.mem := rfl
@[simp] theorem State.setSt_i (s : State) (a : Byte) : (s.setSt a).i = s.i := rfl
@[simp] theorem State.setSt_stack (s : State) (a : Byte) : (s.setSt a).stack = s.stack := rfl
@[simp] theorem State.setSt_dt (s : State) (a : Byte) : (s.setSt a).dt = s.dt := rfl
@[simp] theorem State.setSt_st (s : State) (a : Byte) : (s.setSt a).st = a := rfl
@[simp] theorem State.setSt_keys (s : State) (a : Byte) : (s.setSt a).keys = s.keys := rfl
@[simp] theorem State.setSt_rng (s : State) (a : Byte) : (s.setSt a).rng = s.rng := rfl
@[simp] theorem State.setSt_fb (s : State) (a : Byte) : (s.setSt a).fb = s.fb := rfl
@[simp] theorem State.setSt_params (s : State) (a : Byte) : (s.setSt a).params = s.params := rfl

@[simp] theorem State.setKeys_v (s : State) (a : Word) : (s.setKeys a).v = s.v := rfl
@[simp] theorem State.setKeys_pc (s : State) (a : Word) : (s.setKeys a).pc = s.pc := rfl
@[simp] theorem State.setKeys_mem (s : State) (a : Word) : (s.setKeys a).mem = s.mem := rfl
@[simp] theorem State.setKeys_i (s : State) (a : Word) : (s.setKeys a).i = s.i := rfl
@[simp] theorem State.setKeys_stack (s : State) (a : Word) : (s.setKeys a).stack = s.stack := rfl
@[simp] theorem State.setKeys_dt (s : State) (a : Word) : (s.setKeys a).dt = s.dt := rfl
@[simp] theorem State.setKeys_st (s : State) (a : Word) : (s.setKeys a).st = s.st := rfl
@[simp] theorem State.setKeys_keys (s : State) (a : Word) : (s.setKeys a).keys = a := rfl
@[simp] theorem State.setKeys_rng (s : State) (a : Word) : (s.setKeys a).rng = s.rng := rfl
@[simp] theorem State.setKeys_fb (s : State) (a : Word) : (s.setKeys a).fb = s.fb := rfl
@[simp] theorem State.setKeys_params (s : State) (a : Word) : (s.setKeys a).params = s.params := rfl

@[simp] theorem State.setRng_v (s : State) (a : Quad) : (s.setRng a).v = s.v := rfl
@[simp] theorem State.setRng_pc (s : State) (a : Quad) : (s.setRng a).pc = s.pc := rfl
@[simp] theorem State.setRng_mem (s : State) (a : Quad) : (s.setRng a).mem = s.mem := rfl
@[simp] theorem State.setRng_i (s : State) (a : Quad) : (s.setRng a).i = s.i := rfl
@[simp] theorem State.setRng_stack (s : State) (a : Quad) : (s.setRng a).stack = s.stack := rfl
@[simp] theorem State.setRng_dt (s : State) (a : Quad) : (s.setRng a).dt = s.dt := rfl
@[simp] theorem State.setRng_st (s : State) (a : Quad) : (s.setRng a).st = s.st := rfl
@[simp] theorem State.setRng_keys (s : State) (a : Quad) : (s.setRng a).keys = s.keys := rfl
@[simp] theorem State.setRng_rng (s : State) (a : Quad) : (s.setRng a).rng = a := rfl
@[simp] theorem State.setRng_fb (s : State) (a : Quad) : (s.setRng a).fb = s.fb := rfl
@[simp] theorem State.setRng_params (s : State) (a : Quad) : (s.setRng a).params = s.params := rfl

@[simp] theorem State.setFb_v (s : State) (a : Vector Quad 32) : (s.setFb a).v = s.v := rfl
@[simp] theorem State.setFb_pc (s : State) (a : Vector Quad 32) : (s.setFb a).pc = s.pc := rfl
@[simp] theorem State.setFb_mem (s : State) (a : Vector Quad 32) : (s.setFb a).mem = s.mem := rfl
@[simp] theorem State.setFb_i (s : State) (a : Vector Quad 32) : (s.setFb a).i = s.i := rfl
@[simp] theorem State.setFb_stack (s : State) (a : Vector Quad 32) : (s.setFb a).stack = s.stack := rfl
@[simp] theorem State.setFb_dt (s : State) (a : Vector Quad 32) : (s.setFb a).dt = s.dt := rfl
@[simp] theorem State.setFb_st (s : State) (a : Vector Quad 32) : (s.setFb a).st = s.st := rfl
@[simp] theorem State.setFb_keys (s : State) (a : Vector Quad 32) : (s.setFb a).keys = s.keys := rfl
@[simp] theorem State.setFb_rng (s : State) (a : Vector Quad 32) : (s.setFb a).rng = s.rng := rfl
@[simp] theorem State.setFb_fb (s : State) (a : Vector Quad 32) : (s.setFb a).fb = a := rfl
@[simp] theorem State.setFb_params (s : State) (a : Vector Quad 32) : (s.setFb a).params = s.params := rfl

/-! ### Operations: the fields each leaves as they were, and the ones it sets -/

@[simp] theorem State.setReg_v (s : State) (x : Reg) (b : Byte) : (s.setReg x b).v = s.v.set x.val b x.isLt := rfl
@[simp] theorem State.setReg_pc (s : State) (x : Reg) (b : Byte) : (s.setReg x b).pc = s.pc := rfl
@[simp] theorem State.setReg_mem (s : State) (x : Reg) (b : Byte) : (s.setReg x b).mem = s.mem := rfl
@[simp] theorem State.setReg_i (s : State) (x : Reg) (b : Byte) : (s.setReg x b).i = s.i := rfl
@[simp] theorem State.setReg_stack (s : State) (x : Reg) (b : Byte) : (s.setReg x b).stack = s.stack := rfl
@[simp] theorem State.setReg_dt (s : State) (x : Reg) (b : Byte) : (s.setReg x b).dt = s.dt := rfl
@[simp] theorem State.setReg_st (s : State) (x : Reg) (b : Byte) : (s.setReg x b).st = s.st := rfl
@[simp] theorem State.setReg_keys (s : State) (x : Reg) (b : Byte) : (s.setReg x b).keys = s.keys := rfl
@[simp] theorem State.setReg_rng (s : State) (x : Reg) (b : Byte) : (s.setReg x b).rng = s.rng := rfl
@[simp] theorem State.setReg_fb (s : State) (x : Reg) (b : Byte) : (s.setReg x b).fb = s.fb := rfl
@[simp] theorem State.setReg_params (s : State) (x : Reg) (b : Byte) : (s.setReg x b).params = s.params := rfl

@[simp] theorem State.setRegFlag_pc (s : State) (x : Reg) (b c : Byte) : (s.setRegFlag x b c).pc = s.pc := rfl
@[simp] theorem State.setRegFlag_mem (s : State) (x : Reg) (b c : Byte) : (s.setRegFlag x b c).mem = s.mem := rfl
@[simp] theorem State.setRegFlag_i (s : State) (x : Reg) (b c : Byte) : (s.setRegFlag x b c).i = s.i := rfl
@[simp] theorem State.setRegFlag_stack (s : State) (x : Reg) (b c : Byte) : (s.setRegFlag x b c).stack = s.stack := rfl
@[simp] theorem State.setRegFlag_dt (s : State) (x : Reg) (b c : Byte) : (s.setRegFlag x b c).dt = s.dt := rfl
@[simp] theorem State.setRegFlag_st (s : State) (x : Reg) (b c : Byte) : (s.setRegFlag x b c).st = s.st := rfl
@[simp] theorem State.setRegFlag_keys (s : State) (x : Reg) (b c : Byte) : (s.setRegFlag x b c).keys = s.keys := rfl
@[simp] theorem State.setRegFlag_rng (s : State) (x : Reg) (b c : Byte) : (s.setRegFlag x b c).rng = s.rng := rfl
@[simp] theorem State.setRegFlag_fb (s : State) (x : Reg) (b c : Byte) : (s.setRegFlag x b c).fb = s.fb := rfl
@[simp] theorem State.setRegFlag_params (s : State) (x : Reg) (b c : Byte) : (s.setRegFlag x b c).params = s.params := rfl

@[simp] theorem State.next_v (s : State) : (s.next).v = s.v := rfl
@[simp] theorem State.next_pc (s : State) : (s.next).pc = s.pc + 2 := rfl
@[simp] theorem State.next_mem (s : State) : (s.next).mem = s.mem := rfl
@[simp] theorem State.next_i (s : State) : (s.next).i = s.i := rfl
@[simp] theorem State.next_stack (s : State) : (s.next).stack = s.stack := rfl
@[simp] theorem State.next_dt (s : State) : (s.next).dt = s.dt := rfl
@[simp] theorem State.next_st (s : State) : (s.next).st = s.st := rfl
@[simp] theorem State.next_keys (s : State) : (s.next).keys = s.keys := rfl
@[simp] theorem State.next_rng (s : State) : (s.next).rng = s.rng := rfl
@[simp] theorem State.next_fb (s : State) : (s.next).fb = s.fb := rfl
@[simp] theorem State.next_params (s : State) : (s.next).params = s.params := rfl

@[simp] theorem State.skip_v (s : State) (c : Bool) : (s.skip c).v = s.v := rfl
@[simp] theorem State.skip_pc (s : State) (c : Bool) : (s.skip c).pc = s.pc + if c then 4 else 2 := rfl
@[simp] theorem State.skip_mem (s : State) (c : Bool) : (s.skip c).mem = s.mem := rfl
@[simp] theorem State.skip_i (s : State) (c : Bool) : (s.skip c).i = s.i := rfl
@[simp] theorem State.skip_stack (s : State) (c : Bool) : (s.skip c).stack = s.stack := rfl
@[simp] theorem State.skip_dt (s : State) (c : Bool) : (s.skip c).dt = s.dt := rfl
@[simp] theorem State.skip_st (s : State) (c : Bool) : (s.skip c).st = s.st := rfl
@[simp] theorem State.skip_keys (s : State) (c : Bool) : (s.skip c).keys = s.keys := rfl
@[simp] theorem State.skip_rng (s : State) (c : Bool) : (s.skip c).rng = s.rng := rfl
@[simp] theorem State.skip_fb (s : State) (c : Bool) : (s.skip c).fb = s.fb := rfl
@[simp] theorem State.skip_params (s : State) (c : Bool) : (s.skip c).params = s.params := rfl

@[simp] theorem State.writeByte_v (s : State) (a : Nat) (b : Byte) : (s.writeByte a b).v = s.v := rfl
@[simp] theorem State.writeByte_pc (s : State) (a : Nat) (b : Byte) : (s.writeByte a b).pc = s.pc := rfl
@[simp] theorem State.writeByte_mem (s : State) (a : Nat) (b : Byte) : (s.writeByte a b).mem = memWrite s.params s.mem (cellOf a) b := rfl
@[simp] theorem State.writeByte_i (s : State) (a : Nat) (b : Byte) : (s.writeByte a b).i = s.i := rfl
@[simp] theorem State.writeByte_stack (s : State) (a : Nat) (b : Byte) : (s.writeByte a b).stack = s.stack := rfl
@[simp] theorem State.writeByte_dt (s : State) (a : Nat) (b : Byte) : (s.writeByte a b).dt = s.dt := rfl
@[simp] theorem State.writeByte_st (s : State) (a : Nat) (b : Byte) : (s.writeByte a b).st = s.st := rfl
@[simp] theorem State.writeByte_keys (s : State) (a : Nat) (b : Byte) : (s.writeByte a b).keys = s.keys := rfl
@[simp] theorem State.writeByte_rng (s : State) (a : Nat) (b : Byte) : (s.writeByte a b).rng = s.rng := rfl
@[simp] theorem State.writeByte_fb (s : State) (a : Nat) (b : Byte) : (s.writeByte a b).fb = s.fb := rfl
@[simp] theorem State.writeByte_params (s : State) (a : Nat) (b : Byte) : (s.writeByte a b).params = s.params := rfl

@[simp] theorem State.dropTop_v (s : State) : (s.dropTop).v = s.v := rfl
@[simp] theorem State.dropTop_pc (s : State) : (s.dropTop).pc = s.pc := rfl
@[simp] theorem State.dropTop_mem (s : State) : (s.dropTop).mem = s.mem := rfl
@[simp] theorem State.dropTop_i (s : State) : (s.dropTop).i = s.i := rfl
@[simp] theorem State.dropTop_stack (s : State) : (s.dropTop).stack = s.stack.dropLast := rfl
@[simp] theorem State.dropTop_dt (s : State) : (s.dropTop).dt = s.dt := rfl
@[simp] theorem State.dropTop_st (s : State) : (s.dropTop).st = s.st := rfl
@[simp] theorem State.dropTop_keys (s : State) : (s.dropTop).keys = s.keys := rfl
@[simp] theorem State.dropTop_rng (s : State) : (s.dropTop).rng = s.rng := rfl
@[simp] theorem State.dropTop_fb (s : State) : (s.dropTop).fb = s.fb := rfl
@[simp] theorem State.dropTop_params (s : State) : (s.dropTop).params = s.params := rfl

@[simp] theorem State.stepRng_v (s : State) : (s.stepRng).v = s.v := rfl
@[simp] theorem State.stepRng_pc (s : State) : (s.stepRng).pc = s.pc := rfl
@[simp] theorem State.stepRng_mem (s : State) : (s.stepRng).mem = s.mem := rfl
@[simp] theorem State.stepRng_i (s : State) : (s.stepRng).i = s.i := rfl
@[simp] theorem State.stepRng_stack (s : State) : (s.stepRng).stack = s.stack := rfl
@[simp] theorem State.stepRng_dt (s : State) : (s.stepRng).dt = s.dt := rfl
@[simp] theorem State.stepRng_st (s : State) : (s.stepRng).st = s.st := rfl
@[simp] theorem State.stepRng_keys (s : State) : (s.stepRng).keys = s.keys := rfl
@[simp] theorem State.stepRng_rng (s : State) : (s.stepRng).rng = rngStep s.params s.rng := rfl
@[simp] theorem State.stepRng_fb (s : State) : (s.stepRng).fb = s.fb := rfl
@[simp] theorem State.stepRng_params (s : State) : (s.stepRng).params = s.params := rfl

@[simp] theorem State.clearFb_v (s : State) : (s.clearFb).v = s.v := rfl
@[simp] theorem State.clearFb_pc (s : State) : (s.clearFb).pc = s.pc := rfl
@[simp] theorem State.clearFb_mem (s : State) : (s.clearFb).mem = s.mem := rfl
@[simp] theorem State.clearFb_i (s : State) : (s.clearFb).i = s.i := rfl
@[simp] theorem State.clearFb_stack (s : State) : (s.clearFb).stack = s.stack := rfl
@[simp] theorem State.clearFb_dt (s : State) : (s.clearFb).dt = s.dt := rfl
@[simp] theorem State.clearFb_st (s : State) : (s.clearFb).st = s.st := rfl
@[simp] theorem State.clearFb_keys (s : State) : (s.clearFb).keys = s.keys := rfl
@[simp] theorem State.clearFb_rng (s : State) : (s.clearFb).rng = s.rng := rfl
@[simp] theorem State.clearFb_fb (s : State) : (s.clearFb).fb = Vector.replicate 32 0 := rfl
@[simp] theorem State.clearFb_params (s : State) : (s.clearFb).params = s.params := rfl

@[simp] theorem State.setRow_v (s : State) (r : Nat) (q : Quad) : (s.setRow r q).v = s.v := rfl
@[simp] theorem State.setRow_pc (s : State) (r : Nat) (q : Quad) : (s.setRow r q).pc = s.pc := rfl
@[simp] theorem State.setRow_mem (s : State) (r : Nat) (q : Quad) : (s.setRow r q).mem = s.mem := rfl
@[simp] theorem State.setRow_i (s : State) (r : Nat) (q : Quad) : (s.setRow r q).i = s.i := rfl
@[simp] theorem State.setRow_stack (s : State) (r : Nat) (q : Quad) : (s.setRow r q).stack = s.stack := rfl
@[simp] theorem State.setRow_dt (s : State) (r : Nat) (q : Quad) : (s.setRow r q).dt = s.dt := rfl
@[simp] theorem State.setRow_st (s : State) (r : Nat) (q : Quad) : (s.setRow r q).st = s.st := rfl
@[simp] theorem State.setRow_keys (s : State) (r : Nat) (q : Quad) : (s.setRow r q).keys = s.keys := rfl
@[simp] theorem State.setRow_rng (s : State) (r : Nat) (q : Quad) : (s.setRow r q).rng = s.rng := rfl
@[simp] theorem State.setRow_fb (s : State) (r : Nat) (q : Quad) : (s.setRow r q).fb = s.fb.setIfInBounds r q := rfl
@[simp] theorem State.setRow_params (s : State) (r : Nat) (q : Quad) : (s.setRow r q).params = s.params := rfl

@[simp] theorem State.countDown_v (s : State) : (s.countDown).v = s.v := rfl
@[simp] theorem State.countDown_pc (s : State) : (s.countDown).pc = s.pc := rfl
@[simp] theorem State.countDown_mem (s : State) : (s.countDown).mem = s.mem := rfl
@[simp] theorem State.countDown_i (s : State) : (s.countDown).i = s.i := rfl
@[simp] theorem State.countDown_stack (s : State) : (s.countDown).stack = s.stack := rfl
@[simp] theorem State.countDown_dt (s : State) : (s.countDown).dt = decTimer s.dt := rfl
@[simp] theorem State.countDown_st (s : State) : (s.countDown).st = decTimer s.st := rfl
@[simp] theorem State.countDown_keys (s : State) : (s.countDown).keys = s.keys := rfl
@[simp] theorem State.countDown_rng (s : State) : (s.countDown).rng = s.rng := rfl
@[simp] theorem State.countDown_fb (s : State) : (s.countDown).fb = s.fb := rfl
@[simp] theorem State.countDown_params (s : State) : (s.countDown).params = s.params := rfl

@[simp] theorem State.loadRun_pc (s : State) (a : Nat) (x : Reg) : (s.loadRun a x).pc = s.pc := rfl
@[simp] theorem State.loadRun_mem (s : State) (a : Nat) (x : Reg) : (s.loadRun a x).mem = s.mem := rfl
@[simp] theorem State.loadRun_i (s : State) (a : Nat) (x : Reg) : (s.loadRun a x).i = s.i := rfl
@[simp] theorem State.loadRun_stack (s : State) (a : Nat) (x : Reg) : (s.loadRun a x).stack = s.stack := rfl
@[simp] theorem State.loadRun_dt (s : State) (a : Nat) (x : Reg) : (s.loadRun a x).dt = s.dt := rfl
@[simp] theorem State.loadRun_st (s : State) (a : Nat) (x : Reg) : (s.loadRun a x).st = s.st := rfl
@[simp] theorem State.loadRun_keys (s : State) (a : Nat) (x : Reg) : (s.loadRun a x).keys = s.keys := rfl
@[simp] theorem State.loadRun_rng (s : State) (a : Nat) (x : Reg) : (s.loadRun a x).rng = s.rng := rfl
@[simp] theorem State.loadRun_fb (s : State) (a : Nat) (x : Reg) : (s.loadRun a x).fb = s.fb := rfl
@[simp] theorem State.loadRun_params (s : State) (a : Nat) (x : Reg) : (s.loadRun a x).params = s.params := rfl

@[simp] theorem State.drawRow_pc (s : State) (c r : Nat) (b : Byte) : (s.drawRow c r b).pc = s.pc := rfl
@[simp] theorem State.drawRow_mem (s : State) (c r : Nat) (b : Byte) : (s.drawRow c r b).mem = s.mem := rfl
@[simp] theorem State.drawRow_i (s : State) (c r : Nat) (b : Byte) : (s.drawRow c r b).i = s.i := rfl
@[simp] theorem State.drawRow_stack (s : State) (c r : Nat) (b : Byte) : (s.drawRow c r b).stack = s.stack := rfl
@[simp] theorem State.drawRow_dt (s : State) (c r : Nat) (b : Byte) : (s.drawRow c r b).dt = s.dt := rfl
@[simp] theorem State.drawRow_st (s : State) (c r : Nat) (b : Byte) : (s.drawRow c r b).st = s.st := rfl
@[simp] theorem State.drawRow_keys (s : State) (c r : Nat) (b : Byte) : (s.drawRow c r b).keys = s.keys := rfl
@[simp] theorem State.drawRow_rng (s : State) (c r : Nat) (b : Byte) : (s.drawRow c r b).rng = s.rng := rfl
@[simp] theorem State.drawRow_params (s : State) (c r : Nat) (b : Byte) : (s.drawRow c r b).params = s.params := rfl

/-! ### Accessors -/

/-- Reading a register after writing one. -/
theorem State.reg_setReg (s : State) (x y : Reg) (b : Byte) : (s.setReg x b).reg y = if x = y then b else s.reg y := by
  show (s.v.set x.val b x.isLt)[y.val] = if x = y then b else s.v[y.val]
  rw [Vector.getElem_set]
  simp [Fin.ext_iff]

@[simp] theorem State.reg_setReg_same (s : State) (x : Reg) (b : Byte) : (s.setReg x b).reg x = b := by simp [State.reg_setReg]

theorem State.reg_setReg_other (s : State) {x y : Reg} (b : Byte) (h : x ≠ y) : (s.setReg x b).reg y = s.reg y := by
  simp [State.reg_setReg, h]

/-- Reading a register after a result and a flag were written: the flag wins where both go to `VF` (R11). -/
theorem State.reg_setRegFlag (s : State) (x y : Reg) (b c : Byte) :
    (s.setRegFlag x b c).reg y = if y = vf then c else if x = y then b else s.reg y := by
  unfold State.setRegFlag
  rw [State.reg_setReg, State.reg_setReg]
  by_cases h : vf = y
  · simp [h]
  · simp [h, Ne.symm h]

/-- Two states with the same registers read alike. -/
theorem State.reg_congr {s t : State} (h : t.v = s.v) (x : Reg) : t.reg x = s.reg x := by
  unfold State.reg
  rw [h]

/-- Two states with the same parameters and memory read alike. -/
theorem State.readByte_congr {s t : State} (hp : t.params = s.params) (hm : t.mem = s.mem) (a : Nat) :
    t.readByte a = s.readByte a := by
  unfold State.readByte
  rw [hp, hm]

/-- Two states with the same framebuffer have the same rows. -/
theorem State.row_congr {s t : State} (h : t.fb = s.fb) (r : Nat) : t.row r = s.row r := by
  unfold State.row
  rw [h]

@[simp] theorem State.reg_setPc (s : State) (w : Word) (y : Reg) : (s.setPc w).reg y = s.reg y := rfl
@[simp] theorem State.reg_setI (s : State) (w : Word) (y : Reg) : (s.setI w).reg y = s.reg y := rfl
@[simp] theorem State.reg_setStack (s : State) (w : List Word) (y : Reg) : (s.setStack w).reg y = s.reg y := rfl
@[simp] theorem State.reg_setDt (s : State) (w : Byte) (y : Reg) : (s.setDt w).reg y = s.reg y := rfl
@[simp] theorem State.reg_setSt (s : State) (w : Byte) (y : Reg) : (s.setSt w).reg y = s.reg y := rfl
@[simp] theorem State.reg_setKeys (s : State) (w : Word) (y : Reg) : (s.setKeys w).reg y = s.reg y := rfl
@[simp] theorem State.reg_setRng (s : State) (w : Quad) (y : Reg) : (s.setRng w).reg y = s.reg y := rfl
@[simp] theorem State.reg_setFb (s : State) (w : Vector Quad 32) (y : Reg) : (s.setFb w).reg y = s.reg y := rfl
@[simp] theorem State.reg_setMem (s : State) (w : Memory) (y : Reg) : (s.setMem w).reg y = s.reg y := rfl
@[simp] theorem State.reg_next (s : State) (y : Reg) : (s.next).reg y = s.reg y := rfl
@[simp] theorem State.reg_skip (s : State) (c : Bool) (y : Reg) : (s.skip c).reg y = s.reg y := rfl
@[simp] theorem State.reg_writeByte (s : State) (k : Nat) (b : Byte) (y : Reg) : (s.writeByte k b).reg y = s.reg y := rfl
@[simp] theorem State.reg_dropTop (s : State) (y : Reg) : (s.dropTop).reg y = s.reg y := rfl
@[simp] theorem State.reg_stepRng (s : State) (y : Reg) : (s.stepRng).reg y = s.reg y := rfl
@[simp] theorem State.reg_clearFb (s : State) (y : Reg) : (s.clearFb).reg y = s.reg y := rfl
@[simp] theorem State.reg_setRow (s : State) (n : Nat) (q : Quad) (y : Reg) : (s.setRow n q).reg y = s.reg y := rfl
@[simp] theorem State.reg_countDown (s : State) (y : Reg) : (s.countDown).reg y = s.reg y := rfl

@[simp] theorem State.readByte_setV (s : State) (w : Vector Byte 16) (a : Nat) : (s.setV w).readByte a = s.readByte a := rfl
@[simp] theorem State.readByte_setPc (s : State) (w : Word) (a : Nat) : (s.setPc w).readByte a = s.readByte a := rfl
@[simp] theorem State.readByte_setI (s : State) (w : Word) (a : Nat) : (s.setI w).readByte a = s.readByte a := rfl
@[simp] theorem State.readByte_setStack (s : State) (w : List Word) (a : Nat) : (s.setStack w).readByte a = s.readByte a := rfl
@[simp] theorem State.readByte_setDt (s : State) (w : Byte) (a : Nat) : (s.setDt w).readByte a = s.readByte a := rfl
@[simp] theorem State.readByte_setSt (s : State) (w : Byte) (a : Nat) : (s.setSt w).readByte a = s.readByte a := rfl
@[simp] theorem State.readByte_setKeys (s : State) (w : Word) (a : Nat) : (s.setKeys w).readByte a = s.readByte a := rfl
@[simp] theorem State.readByte_setRng (s : State) (w : Quad) (a : Nat) : (s.setRng w).readByte a = s.readByte a := rfl
@[simp] theorem State.readByte_setFb (s : State) (w : Vector Quad 32) (a : Nat) : (s.setFb w).readByte a = s.readByte a := rfl
@[simp] theorem State.readByte_next (s : State) (a : Nat) : (s.next).readByte a = s.readByte a := rfl
@[simp] theorem State.readByte_skip (s : State) (c : Bool) (a : Nat) : (s.skip c).readByte a = s.readByte a := rfl
@[simp] theorem State.readByte_dropTop (s : State) (a : Nat) : (s.dropTop).readByte a = s.readByte a := rfl
@[simp] theorem State.readByte_stepRng (s : State) (a : Nat) : (s.stepRng).readByte a = s.readByte a := rfl
@[simp] theorem State.readByte_clearFb (s : State) (a : Nat) : (s.clearFb).readByte a = s.readByte a := rfl
@[simp] theorem State.readByte_setRow (s : State) (n : Nat) (q : Quad) (a : Nat) : (s.setRow n q).readByte a = s.readByte a := rfl
@[simp] theorem State.readByte_countDown (s : State) (a : Nat) : (s.countDown).readByte a = s.readByte a := rfl
@[simp] theorem State.readByte_setReg (s : State) (x : Reg) (b : Byte) (a : Nat) : (s.setReg x b).readByte a = s.readByte a := rfl
@[simp] theorem State.readByte_setRegFlag (s : State) (x : Reg) (b : Byte) (c : Byte) (a : Nat) : (s.setRegFlag x b c).readByte a = s.readByte a := rfl
@[simp] theorem State.readByte_loadRun (s : State) (k : Nat) (x : Reg) (a : Nat) : (s.loadRun k x).readByte a = s.readByte a := rfl
@[simp] theorem State.readByte_drawRow (s : State) (m : Nat) (n : Nat) (b : Byte) (a : Nat) : (s.drawRow m n b).readByte a = s.readByte a := rfl

@[simp] theorem State.row_setV (s : State) (w : Vector Byte 16) (r : Nat) : (s.setV w).row r = s.row r := rfl
@[simp] theorem State.row_setPc (s : State) (w : Word) (r : Nat) : (s.setPc w).row r = s.row r := rfl
@[simp] theorem State.row_setI (s : State) (w : Word) (r : Nat) : (s.setI w).row r = s.row r := rfl
@[simp] theorem State.row_setStack (s : State) (w : List Word) (r : Nat) : (s.setStack w).row r = s.row r := rfl
@[simp] theorem State.row_setDt (s : State) (w : Byte) (r : Nat) : (s.setDt w).row r = s.row r := rfl
@[simp] theorem State.row_setSt (s : State) (w : Byte) (r : Nat) : (s.setSt w).row r = s.row r := rfl
@[simp] theorem State.row_setKeys (s : State) (w : Word) (r : Nat) : (s.setKeys w).row r = s.row r := rfl
@[simp] theorem State.row_setRng (s : State) (w : Quad) (r : Nat) : (s.setRng w).row r = s.row r := rfl
@[simp] theorem State.row_setMem (s : State) (w : Memory) (r : Nat) : (s.setMem w).row r = s.row r := rfl
@[simp] theorem State.row_next (s : State) (r : Nat) : (s.next).row r = s.row r := rfl
@[simp] theorem State.row_skip (s : State) (c : Bool) (r : Nat) : (s.skip c).row r = s.row r := rfl
@[simp] theorem State.row_writeByte (s : State) (k : Nat) (b : Byte) (r : Nat) : (s.writeByte k b).row r = s.row r := rfl
@[simp] theorem State.row_dropTop (s : State) (r : Nat) : (s.dropTop).row r = s.row r := rfl
@[simp] theorem State.row_stepRng (s : State) (r : Nat) : (s.stepRng).row r = s.row r := rfl
@[simp] theorem State.row_countDown (s : State) (r : Nat) : (s.countDown).row r = s.row r := rfl
@[simp] theorem State.row_setReg (s : State) (x : Reg) (b : Byte) (r : Nat) : (s.setReg x b).row r = s.row r := rfl
@[simp] theorem State.row_setRegFlag (s : State) (x : Reg) (b : Byte) (c : Byte) (r : Nat) : (s.setRegFlag x b c).row r = s.row r := rfl
@[simp] theorem State.row_loadRun (s : State) (k : Nat) (x : Reg) (r : Nat) : (s.loadRun k x).row r = s.row r := rfl

@[simp] theorem State.sp_setV (s : State) (w : Vector Byte 16) : (s.setV w).sp = s.sp := rfl
@[simp] theorem State.sp_setPc (s : State) (w : Word) : (s.setPc w).sp = s.sp := rfl
@[simp] theorem State.sp_setI (s : State) (w : Word) : (s.setI w).sp = s.sp := rfl
@[simp] theorem State.sp_setDt (s : State) (w : Byte) : (s.setDt w).sp = s.sp := rfl
@[simp] theorem State.sp_setSt (s : State) (w : Byte) : (s.setSt w).sp = s.sp := rfl
@[simp] theorem State.sp_setKeys (s : State) (w : Word) : (s.setKeys w).sp = s.sp := rfl
@[simp] theorem State.sp_setRng (s : State) (w : Quad) : (s.setRng w).sp = s.sp := rfl
@[simp] theorem State.sp_setFb (s : State) (w : Vector Quad 32) : (s.setFb w).sp = s.sp := rfl
@[simp] theorem State.sp_setMem (s : State) (w : Memory) : (s.setMem w).sp = s.sp := rfl
@[simp] theorem State.sp_next (s : State) : (s.next).sp = s.sp := rfl
@[simp] theorem State.sp_skip (s : State) (c : Bool) : (s.skip c).sp = s.sp := rfl
@[simp] theorem State.sp_writeByte (s : State) (k : Nat) (b : Byte) : (s.writeByte k b).sp = s.sp := rfl
@[simp] theorem State.sp_stepRng (s : State) : (s.stepRng).sp = s.sp := rfl
@[simp] theorem State.sp_clearFb (s : State) : (s.clearFb).sp = s.sp := rfl
@[simp] theorem State.sp_setRow (s : State) (n : Nat) (q : Quad) : (s.setRow n q).sp = s.sp := rfl
@[simp] theorem State.sp_countDown (s : State) : (s.countDown).sp = s.sp := rfl
@[simp] theorem State.sp_setReg (s : State) (x : Reg) (b : Byte) : (s.setReg x b).sp = s.sp := rfl
@[simp] theorem State.sp_setRegFlag (s : State) (x : Reg) (b : Byte) (c : Byte) : (s.setRegFlag x b c).sp = s.sp := rfl
@[simp] theorem State.sp_loadRun (s : State) (k : Nat) (x : Reg) : (s.loadRun k x).sp = s.sp := rfl
@[simp] theorem State.sp_drawRow (s : State) (m : Nat) (n : Nat) (b : Byte) : (s.drawRow m n b).sp = s.sp := rfl

@[simp] theorem State.dataAddr_setV (s : State) (w : Vector Byte 16) (k' : Nat) : (s.setV w).dataAddr k' = s.dataAddr k' := rfl
@[simp] theorem State.dataAddr_setPc (s : State) (w : Word) (k' : Nat) : (s.setPc w).dataAddr k' = s.dataAddr k' := rfl
@[simp] theorem State.dataAddr_setStack (s : State) (w : List Word) (k' : Nat) : (s.setStack w).dataAddr k' = s.dataAddr k' := rfl
@[simp] theorem State.dataAddr_setDt (s : State) (w : Byte) (k' : Nat) : (s.setDt w).dataAddr k' = s.dataAddr k' := rfl
@[simp] theorem State.dataAddr_setSt (s : State) (w : Byte) (k' : Nat) : (s.setSt w).dataAddr k' = s.dataAddr k' := rfl
@[simp] theorem State.dataAddr_setKeys (s : State) (w : Word) (k' : Nat) : (s.setKeys w).dataAddr k' = s.dataAddr k' := rfl
@[simp] theorem State.dataAddr_setRng (s : State) (w : Quad) (k' : Nat) : (s.setRng w).dataAddr k' = s.dataAddr k' := rfl
@[simp] theorem State.dataAddr_setFb (s : State) (w : Vector Quad 32) (k' : Nat) : (s.setFb w).dataAddr k' = s.dataAddr k' := rfl
@[simp] theorem State.dataAddr_setMem (s : State) (w : Memory) (k' : Nat) : (s.setMem w).dataAddr k' = s.dataAddr k' := rfl
@[simp] theorem State.dataAddr_next (s : State) (k' : Nat) : (s.next).dataAddr k' = s.dataAddr k' := rfl
@[simp] theorem State.dataAddr_skip (s : State) (c : Bool) (k' : Nat) : (s.skip c).dataAddr k' = s.dataAddr k' := rfl
@[simp] theorem State.dataAddr_writeByte (s : State) (k : Nat) (b : Byte) (k' : Nat) : (s.writeByte k b).dataAddr k' = s.dataAddr k' := rfl
@[simp] theorem State.dataAddr_dropTop (s : State) (k' : Nat) : (s.dropTop).dataAddr k' = s.dataAddr k' := rfl
@[simp] theorem State.dataAddr_stepRng (s : State) (k' : Nat) : (s.stepRng).dataAddr k' = s.dataAddr k' := rfl
@[simp] theorem State.dataAddr_clearFb (s : State) (k' : Nat) : (s.clearFb).dataAddr k' = s.dataAddr k' := rfl
@[simp] theorem State.dataAddr_setRow (s : State) (n : Nat) (q : Quad) (k' : Nat) : (s.setRow n q).dataAddr k' = s.dataAddr k' := rfl
@[simp] theorem State.dataAddr_countDown (s : State) (k' : Nat) : (s.countDown).dataAddr k' = s.dataAddr k' := rfl
@[simp] theorem State.dataAddr_setReg (s : State) (x : Reg) (b : Byte) (k' : Nat) : (s.setReg x b).dataAddr k' = s.dataAddr k' := rfl
@[simp] theorem State.dataAddr_setRegFlag (s : State) (x : Reg) (b : Byte) (c : Byte) (k' : Nat) : (s.setRegFlag x b c).dataAddr k' = s.dataAddr k' := rfl
@[simp] theorem State.dataAddr_loadRun (s : State) (k : Nat) (x : Reg) (k' : Nat) : (s.loadRun k x).dataAddr k' = s.dataAddr k' := rfl
@[simp] theorem State.dataAddr_drawRow (s : State) (m : Nat) (n : Nat) (b : Byte) (k' : Nat) : (s.drawRow m n b).dataAddr k' = s.dataAddr k' := rfl

end Sys2Proof.Machine
end

