-- ==== Sys2Proof/Laws/Memory.lean ====
section
/-!
SUPPORT. Memory: a read after a write, what a write leaves alone, and that every memory operation keeps the canonical
form (`Memory.wf`).
-/

namespace Sys2Proof.Machine

/-! ### The listing -/

theorem memLookup_memErase (m : Memory) (a c : Nat) :
    memLookup (memErase m a) c = if a = c then none else memLookup m c := by
  induction m with
  | nil => simp [memErase, memLookup]
  | cons e m ih =>
    obtain ⟨k, b⟩ := e
    by_cases hk : k = a
    · subst hk
      by_cases hc : k = c
      · subst hc
        simpa [memErase] using ih
      · simp [memErase, memLookup, ih, hc]
    · by_cases hc : k = c
      · subst hc
        simp [memErase, memLookup, hk, Ne.symm hk]
      · simp [memErase, memLookup, ih, hk, hc]

theorem memLookup_memInsert (m : Memory) (a c : Nat) (v : Byte) :
    memLookup (memInsert m a v) c = if a = c then some v else memLookup m c := by
  induction m with
  | nil => simp [memInsert, memLookup]
  | cons e m ih =>
    obtain ⟨k, b⟩ := e
    by_cases hlt : a < k
    · simp [memInsert, memLookup, hlt]
    · by_cases hk : a = k
      · subst hk
        by_cases hc : a = c <;> simp [memInsert, memLookup, hc]
      · by_cases hc : k = c
        · subst hc
          simp [memInsert, memLookup, hlt, hk]
        · simp [memInsert, memLookup, hlt, hk, hc, ih]

/-- A read after a write: the byte written at its address, the old byte elsewhere. No canonical form is needed. -/
theorem memRead_memWrite (p : Params) (m : Memory) (a c : Nat) (v : Byte) :
    memRead p (memWrite p m a v) c = if a = c then v else memRead p m c := by
  unfold memRead memWrite
  by_cases hv : v = resetByte p a
  · by_cases hc : a = c
    · subst hc
      simp [hv, memLookup_memErase]
    · simp [hv, memLookup_memErase, hc]
  · by_cases hc : a = c
    · subst hc
      simp [hv, memLookup_memInsert]
    · simp [hv, memLookup_memInsert, hc]

/-! ### Canonical form -/

theorem memWfFrom_mono {p : Params} {m : Memory} {lo lo' : Nat} (hle : lo' ≤ lo) (h : memWfFrom p lo m = true) :
    memWfFrom p lo' m = true := by
  cases m with
  | nil => rfl
  | cons e m =>
    simp only [memWfFrom, Bool.and_eq_true, decide_eq_true_eq] at h ⊢
    exact ⟨⟨⟨Nat.le_trans hle h.1.1.1, h.1.1.2⟩, h.1.2⟩, h.2⟩

theorem memErase_wf {p : Params} {m : Memory} {lo : Nat} (a : Nat) (h : memWfFrom p lo m = true) :
    memWfFrom p lo (memErase m a) = true := by
  induction m generalizing lo with
  | nil => rfl
  | cons e m ih =>
    simp only [memWfFrom, Bool.and_eq_true, decide_eq_true_eq] at h
    by_cases hk : e.1 = a
    · simpa [memErase, hk] using memWfFrom_mono (Nat.le_succ_of_le h.1.1.1) (ih h.2)
    · simp only [memErase, hk, if_false, memWfFrom, Bool.and_eq_true, decide_eq_true_eq]
      exact ⟨h.1, ih h.2⟩

theorem memInsert_wf {p : Params} {m : Memory} {lo a : Nat} {v : Byte} (hlo : lo ≤ a) (ha : a < memSize)
    (hv : v ≠ resetByte p a) (h : memWfFrom p lo m = true) : memWfFrom p lo (memInsert m a v) = true := by
  induction m generalizing lo with
  | nil => simp only [memInsert, memWfFrom, Bool.and_eq_true, decide_eq_true_eq, and_true]; exact ⟨⟨hlo, ha⟩, hv⟩
  | cons e m ih =>
    obtain ⟨k, b⟩ := e
    simp only [memWfFrom, Bool.and_eq_true, decide_eq_true_eq] at h
    by_cases hlt : a < k
    · simp only [memInsert, hlt, if_true, memWfFrom, Bool.and_eq_true, decide_eq_true_eq]
      exact ⟨⟨⟨hlo, ha⟩, hv⟩, ⟨⟨hlt, h.1.1.2⟩, h.1.2⟩, h.2⟩
    · by_cases hk : a = k
      · subst hk
        simp only [memInsert, Nat.lt_irrefl, if_false, if_true, memWfFrom, Bool.and_eq_true, decide_eq_true_eq]
        exact ⟨⟨⟨hlo, ha⟩, hv⟩, h.2⟩
      · simp only [memInsert, hlt, hk, if_false, memWfFrom, Bool.and_eq_true, decide_eq_true_eq]
        exact ⟨h.1, ih (by omega) h.2⟩

/-- Storing a byte keeps the canonical form. -/
theorem memWrite_wf {p : Params} {m : Memory} {a : Nat} (v : Byte) (ha : a < memSize) (h : Memory.wf p m = true) :
    Memory.wf p (memWrite p m a v) = true := by
  unfold Memory.wf memWrite at *
  by_cases hv : v = resetByte p a
  · simpa [hv] using memErase_wf a h
  · simpa [hv] using memInsert_wf (Nat.zero_le a) ha hv h

theorem cellOf_lt (a : Nat) : cellOf a < memSize := Nat.mod_lt a (by decide)

theorem cellOf_of_lt {a : Nat} (h : a < memSize) : cellOf a = a := Nat.mod_eq_of_lt h

/-- `MemWrite` keeps the canonical form. -/
theorem State.writeByte_wf (s : State) (a : Nat) (b : Byte) (h : Memory.wf s.params s.mem = true) :
    Memory.wf (s.writeByte a b).params (s.writeByte a b).mem = true := by
  simpa using memWrite_wf b (cellOf_lt a) h

/-- The memory of `initialize` is in canonical form. -/
theorem Memory.wf_nil (p : Params) : Memory.wf p [] = true := rfl

/-! ### Bytes of the state -/

/-- `MemRead` after `MemWrite`. -/
theorem State.readByte_writeByte (s : State) (a c : Nat) (b : Byte) :
    (s.writeByte a b).readByte c = if cellOf a = cellOf c then b else s.readByte c := by
  simp [State.readByte, memRead_memWrite]

@[simp] theorem State.writeBytes_nil (s : State) (a : Nat) : s.writeBytes a [] = s := rfl

theorem State.writeBytes_cons (s : State) (a : Nat) (b : Byte) (bs : List Byte) :
    s.writeBytes a (b :: bs) = (s.writeByte a b).writeBytes (a + 1) bs := rfl

/-- A run of stores changes memory only. -/
theorem State.writeBytes_eq_setMem (s : State) (a : Nat) (bs : List Byte) :
    s.writeBytes a bs = s.setMem (s.writeBytes a bs).mem := by
  induction bs generalizing s a with
  | nil => rfl
  | cons b bs ih => rw [State.writeBytes_cons, ih]; rfl

@[simp] theorem State.writeBytes_v (s : State) (a : Nat) (bs : List Byte) : (s.writeBytes a bs).v = s.v := by
  rw [State.writeBytes_eq_setMem]; rfl
@[simp] theorem State.writeBytes_pc (s : State) (a : Nat) (bs : List Byte) : (s.writeBytes a bs).pc = s.pc := by
  rw [State.writeBytes_eq_setMem]; rfl
@[simp] theorem State.writeBytes_i (s : State) (a : Nat) (bs : List Byte) : (s.writeBytes a bs).i = s.i := by
  rw [State.writeBytes_eq_setMem]; rfl
@[simp] theorem State.writeBytes_stack (s : State) (a : Nat) (bs : List Byte) : (s.writeBytes a bs).stack = s.stack := by
  rw [State.writeBytes_eq_setMem]; rfl
@[simp] theorem State.writeBytes_dt (s : State) (a : Nat) (bs : List Byte) : (s.writeBytes a bs).dt = s.dt := by
  rw [State.writeBytes_eq_setMem]; rfl
@[simp] theorem State.writeBytes_st (s : State) (a : Nat) (bs : List Byte) : (s.writeBytes a bs).st = s.st := by
  rw [State.writeBytes_eq_setMem]; rfl
@[simp] theorem State.writeBytes_keys (s : State) (a : Nat) (bs : List Byte) : (s.writeBytes a bs).keys = s.keys := by
  rw [State.writeBytes_eq_setMem]; rfl
@[simp] theorem State.writeBytes_rng (s : State) (a : Nat) (bs : List Byte) : (s.writeBytes a bs).rng = s.rng := by
  rw [State.writeBytes_eq_setMem]; rfl
@[simp] theorem State.writeBytes_fb (s : State) (a : Nat) (bs : List Byte) : (s.writeBytes a bs).fb = s.fb := by
  rw [State.writeBytes_eq_setMem]; rfl
@[simp] theorem State.writeBytes_params (s : State) (a : Nat) (bs : List Byte) : (s.writeBytes a bs).params = s.params := by
  rw [State.writeBytes_eq_setMem]; rfl

/-- A run of stores keeps the canonical form. -/
theorem State.writeBytes_wf (s : State) (a : Nat) (bs : List Byte) (h : Memory.wf s.params s.mem = true) :
    Memory.wf (s.writeBytes a bs).params (s.writeBytes a bs).mem = true := by
  induction bs generalizing s a with
  | nil => exact h
  | cons b bs ih => exact ih (s.writeByte a b) (a + 1) (State.writeByte_wf s a b h)

/-- A run of stores leaves every other cell alone. -/
theorem State.readByte_writeBytes_other (s : State) (a c : Nat) (bs : List Byte)
    (h : ∀ k < bs.length, cellOf (a + k) ≠ cellOf c) : (s.writeBytes a bs).readByte c = s.readByte c := by
  induction bs generalizing s a with
  | nil => rfl
  | cons b bs ih =>
    rw [State.writeBytes_cons, ih, State.readByte_writeByte, if_neg]
    · simpa using h 0 (by simp)
    · intro k hk
      have := h (k + 1) (by simpa using hk)
      rwa [Nat.add_assoc, Nat.add_comm 1 k]

/-- The bytes of a run of at most 4096 stores are where they were stored. -/
theorem State.readByte_writeBytes_at (s : State) (a : Nat) (bs : List Byte) (hlen : bs.length ≤ memSize) {k : Nat}
    (hk : k < bs.length) : (s.writeBytes a bs).readByte (a + k) = bs[k] := by
  induction bs generalizing s a k with
  | nil => simp at hk
  | cons b bs ih =>
    rw [State.writeBytes_cons]
    simp only [List.length_cons] at hlen hk
    cases k with
    | zero =>
      rw [State.readByte_writeBytes_other, State.readByte_writeByte]
      · simp
      · intro j hj
        simp only [cellOf, memSize] at *
        omega
    | succ k =>
      have := ih (s := s.writeByte a b) (a := a + 1) (by omega) (k := k) (by omega)
      rw [Nat.add_assoc, Nat.add_comm 1 k] at this
      simpa using this

@[simp] theorem State.readBytes_length (s : State) (a n : Nat) : (s.readBytes a n).length = n := by simp [State.readBytes]

theorem State.readBytes_getElem (s : State) (a n : Nat) {k : Nat} (h : k < (s.readBytes a n).length) :
    (s.readBytes a n)[k] = s.readByte (a + k) := by simp [State.readBytes]

end Sys2Proof.Machine
end

