-- ==== Sys2Proof/Laws/Ops.lean ====
section
/-!
SUPPORT. One lemma per shared operation of Machine/Ops.lean, Operands.lean and Flags.lean that says once everything it
can do; the proofs about instructions cite these and do not unfold the operation.
-/

namespace Sys2Proof.Machine

/-! ### The access check (20_memory.md R55) -/

/-- When an access to `len` addresses from `base` goes through. -/
theorem accessFault_eq_none_iff (p : Params) (base len : Nat) :
    accessFault p base len = none ↔ p.oob = .wrap12 ∨ len = 0 ∨ base + len ≤ memSize := by
  unfold accessFault
  cases p.oob <;> simp
  by_cases h : len = 0 <;> simp [h]

/-- When it faults, and the address it names. -/
theorem accessFault_eq_some_iff (p : Params) (base len a : Nat) :
    accessFault p base len = some a ↔ p.oob = .fault ∧ len ≠ 0 ∧ memSize < base + len ∧ a = max base memSize := by
  unfold accessFault
  cases p.oob <;> simp
  by_cases h : len = 0 <;> simp [h]
  intro _
  exact eq_comm

@[simp] theorem guardAccess_of_none {p : Params} {base len : Nat} (go : Result) (h : accessFault p base len = none) :
    guardAccess p base len go = go := by simp [guardAccess, h]

theorem guardAccess_of_some {p : Params} {base len a : Nat} (go : Result) (h : accessFault p base len = some a) :
    guardAccess p base len go = .fault (.addressFault a) := by simp [guardAccess, raise, h]

/-- A guarded instruction answers a next state only through the check. -/
theorem guardAccess_eq_next_iff (p : Params) (base len : Nat) (go : Result) (t : State) :
    guardAccess p base len go = .next t ↔ accessFault p base len = none ∧ go = .next t := by
  unfold guardAccess raise
  cases accessFault p base len <;> simp

/-- A guarded instruction faults by the check, or in itself. -/
theorem guardAccess_eq_fault_iff (p : Params) (base len : Nat) (go : Result) (e : Fault) :
    guardAccess p base len go = .fault e ↔
      (∃ a, accessFault p base len = some a ∧ e = .addressFault a) ∨ (accessFault p base len = none ∧ go = .fault e) := by
  unfold guardAccess raise
  cases accessFault p base len <;> simp
  exact eq_comm

theorem guardAccess_eq_refused_iff (p : Params) (base len : Nat) (go : Result) (r : Refusal) :
    guardAccess p base len go = .refused r ↔ accessFault p base len = none ∧ go = .refused r := by
  unfold guardAccess raise
  cases accessFault p base len <;> simp

/-! ### Raising -/

@[simp] theorem raise_ne_next (e : Fault) (t : State) : raise e ≠ .next t := by simp [raise]

@[simp] theorem andThen_ok (s : State) (k : State → Result) : andThen (.ok s) k = k s := rfl
@[simp] theorem andThen_error (e : Fault) (k : State → Result) : andThen (.error e) k = .fault e := rfl

/-- What a sequence through an operation that may raise can answer as a next state. -/
theorem andThen_eq_next_iff (r : Except Fault State) (k : State → Result) (t : State) :
    andThen r k = .next t ↔ ∃ s, r = .ok s ∧ k s = .next t := by cases r <;> simp

/-! ### Call stack (10_state.md R28, R29) -/

/-- What `Push` can do. -/
theorem push_eq_ok_iff (s t : State) (a : Word) :
    s.push a = .ok t ↔ s.sp ≠ s.params.stackDepth ∧ t = s.setStack (s.stack ++ [a]) := by
  unfold State.push
  by_cases h : s.sp = s.params.stackDepth <;> simp [h]
  exact eq_comm

theorem push_full {s : State} (a : Word) (h : s.sp = s.params.stackDepth) : s.push a = .error .stackOverflow := by
  simp [State.push, h]

theorem push_room {s : State} (a : Word) (h : s.sp ≠ s.params.stackDepth) :
    s.push a = .ok (s.setStack (s.stack ++ [a])) := by simp [State.push, h]

/-- `Pop` of a stack whose newest entry is `a`. -/
theorem popThen_concat {s : State} {l : List Word} {a : Word} (k : Word → State → Result) (h : s.stack = l ++ [a]) :
    popThen s k = k a (s.setStack l) := by simp [popThen, State.dropTop, h]

theorem popThen_empty {s : State} (k : Word → State → Result) (h : s.stack = []) :
    popThen s k = .fault .poppedEmptyStack := by simp [popThen, raise, h]

/-- What `Pop` can do when a next state comes of it. -/
theorem popThen_eq_next {s t : State} {k : Word → State → Result} (h : popThen s k = .next t) :
    ∃ l a, s.stack = l ++ [a] ∧ k a (s.setStack l) = .next t := by
  rcases List.eq_nil_or_concat s.stack with hs | ⟨l, a, hs⟩
  · rw [popThen_empty k hs] at h
    cases h
  · rw [List.concat_eq_append] at hs
    exact ⟨l, a, hs, by rwa [popThen_concat k hs] at h⟩

/-! ### Index register (42_index_memory.md R152) -/

/-- What an addition to `I` can do. -/
theorem addToI_eq_ok {s t : State} {k : Nat} (h : s.addToI k = .ok t) : t = s.setI (s.i + BitVec.ofNat 16 k) := by
  unfold State.addToI at h
  cases ho : s.params.iOverflow
  · simpa [ho] using h.symm
  · simp only [ho] at h
    split at h
    · exact (Except.ok.inj h).symm
    · cases h

/-- When it goes through. -/
theorem addToI_ok {s : State} {k : Nat} (h : s.params.iOverflow = .wrap16 ∨ s.i.toNat + k < 2 ^ 16) :
    s.addToI k = .ok (s.setI (s.i + BitVec.ofNat 16 k)) := by
  unfold State.addToI
  cases ho : s.params.iOverflow
  · rfl
  · rcases h with h | h
    · rw [ho] at h
      cases h
    · exact if_pos h

/-- When it faults. -/
theorem addToI_error {s : State} {k : Nat} (ho : s.params.iOverflow = .fault) (h : 2 ^ 16 ≤ s.i.toNat + k) :
    s.addToI k = .error .indexOverflow := by
  unfold State.addToI
  rw [ho]
  exact if_neg (Nat.not_lt.mpr h)

/-! ### Timers (60_exceptions.md R220) -/

/-- The count-down saturates at 0. -/
theorem decTimer_toNat (t : Byte) : (decTimer t).toNat = t.toNat - 1 := by
  unfold decTimer
  by_cases h : t = 0
  · simp [h]
  · have h0 : t.toNat ≠ 0 := fun hz => h (BitVec.eq_of_toNat_eq (by simpa using hz))
    have := t.isLt
    have h1 : (1 : Byte).toNat = 1 := rfl
    simp only [h, if_false, BitVec.toNat_sub, h1]
    omega

/-- What the end of a tick makes of an instruction's answer. -/
theorem finishTick_eq_next_iff (r : Result) (t : State) : finishTick r = .next t ↔ ∃ u, r = .next u ∧ t = u.countDown := by
  cases r <;> simp [finishTick]
  exact eq_comm

theorem finishTick_eq_fault_iff (r : Result) (e : Fault) : finishTick r = .fault e ↔ r = .fault e := by
  cases r <;> simp [finishTick]

theorem finishTick_eq_refused_iff (r : Result) (e : Refusal) : finishTick r = .refused e ↔ r = .refused e := by
  cases r <;> simp [finishTick]

/-! ### Framebuffer (10_state.md R33) -/

theorem row_setRow (s : State) {r : Nat} (c : Nat) (q : Quad) (h : r < 32) :
    (s.setRow r q).row c = if r = c then q else s.row c := by
  unfold State.row
  rw [State.setRow_fb, Vector.toList_setIfInBounds, List.getD_eq_getElem?_getD, List.getD_eq_getElem?_getD, List.getElem?_set]
  by_cases hc : r = c
  · subst hc
    simp [h]
  · simp [hc]

@[simp] theorem row_clearFb (s : State) (r : Nat) : s.clearFb.row r = 0 := by
  unfold State.row
  rw [State.clearFb_fb, List.getD_eq_getElem?_getD, Vector.toList_replicate, List.getElem?_replicate]
  split <;> rfl

/-- A drawn row: its own row, and the others. -/
theorem row_drawRow (s : State) {r : Nat} (c cx : Nat) (b : Byte) (h : r < 32) :
    (s.drawRow cx r b).row c = if r = c then s.row r ^^^ spriteLine b cx else s.row c := by
  unfold State.drawRow
  rw [row_setRow _ _ _ h, State.row_setReg]

/-- A drawn row writes no register but `VF`. -/
theorem reg_drawRow (s : State) (r cx : Nat) (b : Byte) (y : Reg) :
    (s.drawRow cx r b).reg y = if vf = y then collisionFlag (s.row r) (spriteLine b cx) else s.reg y := by
  unfold State.drawRow
  rw [State.reg_setRow, State.reg_setReg]

/-- Drawing rows changes only the framebuffer and `VF`. -/
theorem drawRows_frame (s : State) (cx r : Nat) (bs : List Byte) :
    ∃ f v, s.drawRows cx r bs = (s.setFb f).setV v ∧ ∀ y, y ≠ vf → v.get y = s.reg y := by
  induction bs generalizing s r with
  | nil => exact ⟨s.fb, s.v, rfl, fun _ _ => rfl⟩
  | cons b bs ih =>
    obtain ⟨f, v, h, hv⟩ := ih (s.drawRow cx r b) (r + 1)
    refine ⟨f, v, h, fun y hy => ?_⟩
    rw [hv y hy, reg_drawRow, if_neg (Ne.symm hy)]

/-- What drawing rows leaves in every row: the drawn ones exclusive-ored with their lines, the others as they were. -/
theorem row_drawRows (s : State) (cx r : Nat) (bs : List Byte) (h : r + bs.length ≤ 32) (c : Nat) :
    (s.drawRows cx r bs).row c =
      if hc : r ≤ c ∧ c < r + bs.length then s.row c ^^^ spriteLine (bs[c - r]'(by omega)) cx else s.row c := by
  induction bs generalizing s r with
  | nil =>
    rw [dif_neg (by simp)]
    rfl
  | cons b bs ih =>
    simp only [List.length_cons] at h
    show ((s.drawRow cx r b).drawRows cx (r + 1) bs).row c = _
    rw [ih _ _ (by omega), row_drawRow _ _ _ _ (by omega)]
    by_cases h1 : r = c
    · subst h1
      simp
    · by_cases h2 : r + 1 ≤ c ∧ c < r + 1 + bs.length
      · rw [dif_pos h2, dif_pos (by simp; omega), if_neg h1]
        congr 2
        have : c - r = (c - (r + 1)) + 1 := by omega
        simp [this]
      · rw [dif_neg h2, dif_neg (by simp; omega), if_neg h1]

/-- Rows are drawn one list after the other. -/
theorem drawRows_append (s : State) (cx r : Nat) (bs cs : List Byte) :
    s.drawRows cx r (bs ++ cs) = (s.drawRows cx r bs).drawRows cx (r + bs.length) cs := by
  induction bs generalizing s r with
  | nil => rfl
  | cons b bs ih =>
    simp only [List.cons_append, State.drawRows, List.length_cons]
    rw [ih]
    congr 1
    omega

/-! ### Register runs (42_index_memory.md R155, R156) -/

@[simp] theorem regRun_length (s : State) (x : Reg) : (s.regRun x).length = runLength x := by
  have := x.isLt
  simp only [State.regRun, runLength, List.length_take, Vector.length_toList]
  omega

theorem regRun_getElem (s : State) (x : Reg) {k : Nat} (h : k < (s.regRun x).length) :
    (s.regRun x)[k] = s.reg ⟨k, by have := x.isLt; rw [regRun_length] at h; unfold runLength at h; omega⟩ := by
  simp only [State.regRun, List.getElem_take, Vector.getElem_toList]
  rfl

theorem reg_loadRun (s : State) (a : Nat) (x r : Reg) :
    (s.loadRun a x).reg r = if r.val ≤ x.val then s.readByte (a + r.val) else s.reg r := by
  show (Vector.ofFn fun r : Reg => if r.val ≤ x.val then s.readByte (a + r.val) else s.reg r)[r.val] = _
  rw [Vector.getElem_ofFn]

/-! ### Keys (44_timer_key_random.md R196) -/

/-- The scan finds nothing exactly when no bit is set. -/
theorem lowestKey_eq_none_iff (s : State) : s.lowestKey = none ↔ s.keys = 0 := by
  unfold State.lowestKey
  rw [List.find?_eq_none]
  constructor
  · intro h
    apply BitVec.eq_of_getLsbD_eq
    intro k hk
    simpa using h k (by simpa using hk)
  · intro h
    simp [h]

/-- What the scan finds is the least key down. -/
theorem lowestKey_eq_some {s : State} {k : Nat} (h : s.lowestKey = some k) :
    k < 16 ∧ s.keys.getLsbD k = true ∧ ∀ j < k, s.keys.getLsbD j = false := by
  unfold State.lowestKey at h
  rw [List.find?_range_eq_some] at h
  obtain ⟨hk, hmem, hlt⟩ := h
  exact ⟨by simpa using hmem, hk, fun j hj => by simpa using hlt j hj⟩

/-! ### Flags (10_state.md R22) -/

theorem flag_eq_zero_or_one (c : Bool) : flag c = 0 ∨ flag c = 1 := by cases c <;> simp [flag]

theorem carryFlag_eq (a b : Byte) : carryFlag a b = if a.toNat + b.toNat > 255 then 1 else 0 := by simp [carryFlag, flag]

theorem greaterFlag_eq (a b : Byte) : greaterFlag a b = if a.toNat > b.toNat then 1 else 0 := by simp [greaterFlag, flag]

theorem collisionFlag_eq (old line : Quad) : collisionFlag old line = if old &&& line ≠ 0 then 1 else 0 := by
  simp [collisionFlag, flag]

theorem lowBitFlag_toNat (b : Byte) : (lowBitFlag b).toNat = b.toNat % 2 := by
  revert b
  decide

theorem highBitFlag_toNat (b : Byte) : (highBitFlag b).toNat = b.toNat / 128 := by
  revert b
  decide

end Sys2Proof.Machine
end

