-- ==== Sys2Proof/Laws/Exec.lean ====
section
/-!
SUPPORT. What a step can do, said once, and what each instruction that may raise can do when it answers a next state.
The other instructions answer a next state on every path, by their definitions.
-/

namespace Sys2Proof.Machine

/-- A step answers a next state only by fetching inside memory, decoding a legal word, completing the instruction, and
counting the timers down (30_encoding.md R77). -/
theorem step_eq_next_iff (s t : State) : step s = .next t ↔
    accessFault s.params s.pc.toNat 2 = none ∧
      ∃ i u, decodeWord s.fetchWord = some i ∧ exec i s = .next u ∧ t = u.countDown := by
  unfold step
  rw [guardAccess_eq_next_iff]
  refine and_congr_right fun _ => ?_
  cases decodeWord s.fetchWord with
  | none => simp
  | some i => simp [finishTick_eq_next_iff]

/-- A step raises by its fetch, its decode, or its instruction, in this order (60_exceptions.md R216). -/
theorem step_eq_fault_iff (s : State) (e : Fault) : step s = .fault e ↔
    (∃ a, accessFault s.params s.pc.toNat 2 = some a ∧ e = .addressFault a) ∨
      (accessFault s.params s.pc.toNat 2 = none ∧
        ((decodeWord s.fetchWord = none ∧ e = .undefinedOp s.fetchWord) ∨
          ∃ i, decodeWord s.fetchWord = some i ∧ exec i s = .fault e)) := by
  unfold step
  rw [guardAccess_eq_fault_iff]
  refine or_congr_right (and_congr_right fun _ => ?_)
  cases decodeWord s.fetchWord with
  | none => simp [raise, eq_comm]
  | some i => simp [finishTick_eq_fault_iff]

/-- A legal word inside memory: the step is the instruction, then the count-down. -/
theorem step_of_decode {s : State} {i : Instr} (hf : accessFault s.params s.pc.toNat 2 = none)
    (hd : decodeWord s.fetchWord = some i) : step s = finishTick (exec i s) := by
  simp [step, hf, hd]

/-! ### Instructions that may raise, each as its shared operations -/

theorem exec_ret (s : State) : exec .ret s = popThen s fun a s' => .next (s'.setPc a) := rfl

theorem exec_call (s : State) (nnn : Addr12) :
    exec (.call nnn) s = andThen (s.push (s.pc + 2)) fun s' => .next (s'.setPc (zextAddr nnn)) := rfl

theorem exec_addI (s : State) (x : Reg) : exec (.addI x) s = andThen (s.addToI (s.reg x).toNat) fun s' => .next s'.next := rfl

theorem exec_ldBcd (s : State) (x : Reg) : exec (.ldBcd x) s =
    guardAccess s.params (s.dataAddr 0) 3 (.next (s.writeBytes (s.dataAddr 0) (bcdDigits (s.reg x))).next) := rfl

theorem exec_storeRegs (s : State) (x : Reg) : exec (.storeRegs x) s =
    guardAccess s.params (s.dataAddr 0) (runLength x)
      (andThen ((s.writeBytes (s.dataAddr 0) (s.regRun x)).addToI 1) fun s' => .next s'.next) := rfl

theorem exec_loadRegs (s : State) (x : Reg) : exec (.loadRegs x) s =
    guardAccess s.params (s.dataAddr 0) (runLength x)
      (andThen ((s.loadRun (s.dataAddr 0) x).addToI 1) fun s' => .next s'.next) := rfl

theorem exec_drw (s : State) (x y : Reg) (n : Nibble) : exec (.drw x y n) s =
    guardAccess s.params (s.dataAddr 0) (s.spriteRows y n)
      (.next (s.drawRows (startCol (s.reg x)) (startRow (s.reg y)) (s.readBytes (s.dataAddr 0) (s.spriteRows y n))).next) := rfl

theorem exec_ldVxKey (s : State) (x : Reg) : exec (.ldVxKey x) s =
    match s.lowestKey with
    | none => .next s
    | some k => .next (s.setReg x (BitVec.ofNat 8 k)).next := rfl

/-! ### What they can do when they answer a next state -/

theorem exec_ret_next {s t : State} (h : exec .ret s = .next t) :
    ∃ l a, s.stack = l ++ [a] ∧ t = (s.setStack l).setPc a := by
  rw [exec_ret] at h
  obtain ⟨l, a, hs, ht⟩ := popThen_eq_next h
  exact ⟨l, a, hs, (Host.Outcome.next.inj ht).symm⟩

theorem exec_call_next {s t : State} {nnn : Addr12} (h : exec (.call nnn) s = .next t) :
    s.sp ≠ s.params.stackDepth ∧ t = (s.setStack (s.stack ++ [s.pc + 2])).setPc (zextAddr nnn) := by
  obtain ⟨u, hu, ht⟩ := (andThen_eq_next_iff _ _ _).mp h
  obtain ⟨hsp, rfl⟩ := (push_eq_ok_iff _ _ _).mp hu
  exact ⟨hsp, (Host.Outcome.next.inj ht).symm⟩

theorem exec_addI_next {s t : State} {x : Reg} (h : exec (.addI x) s = .next t) :
    t = (s.setI (s.i + BitVec.ofNat 16 (s.reg x).toNat)).next := by
  obtain ⟨u, hu, ht⟩ := (andThen_eq_next_iff _ _ _).mp h
  rw [addToI_eq_ok hu] at ht
  exact (Host.Outcome.next.inj ht).symm

theorem exec_ldBcd_next {s t : State} {x : Reg} (h : exec (.ldBcd x) s = .next t) :
    accessFault s.params (s.dataAddr 0) 3 = none ∧ t = (s.writeBytes (s.dataAddr 0) (bcdDigits (s.reg x))).next := by
  obtain ⟨ha, ht⟩ := (guardAccess_eq_next_iff _ _ _ _ _).mp h
  exact ⟨ha, (Host.Outcome.next.inj ht).symm⟩

theorem exec_storeRegs_next {s t : State} {x : Reg} (h : exec (.storeRegs x) s = .next t) :
    accessFault s.params (s.dataAddr 0) (runLength x) = none ∧
      t = ((s.writeBytes (s.dataAddr 0) (s.regRun x)).setI (s.i + 1)).next := by
  obtain ⟨ha, h⟩ := (guardAccess_eq_next_iff _ _ _ _ _).mp h
  obtain ⟨u, hu, ht⟩ := (andThen_eq_next_iff _ _ _).mp h
  rw [addToI_eq_ok hu, State.writeBytes_i] at ht
  exact ⟨ha, (Host.Outcome.next.inj ht).symm⟩

theorem exec_loadRegs_next {s t : State} {x : Reg} (h : exec (.loadRegs x) s = .next t) :
    accessFault s.params (s.dataAddr 0) (runLength x) = none ∧
      t = ((s.loadRun (s.dataAddr 0) x).setI (s.i + 1)).next := by
  obtain ⟨ha, h⟩ := (guardAccess_eq_next_iff _ _ _ _ _).mp h
  obtain ⟨u, hu, ht⟩ := (andThen_eq_next_iff _ _ _).mp h
  rw [addToI_eq_ok hu, State.loadRun_i] at ht
  exact ⟨ha, (Host.Outcome.next.inj ht).symm⟩

theorem exec_drw_next {s t : State} {x y : Reg} {n : Nibble} (h : exec (.drw x y n) s = .next t) :
    accessFault s.params (s.dataAddr 0) (s.spriteRows y n) = none ∧
      t = (s.drawRows (startCol (s.reg x)) (startRow (s.reg y)) (s.readBytes (s.dataAddr 0) (s.spriteRows y n))).next := by
  obtain ⟨ha, ht⟩ := (guardAccess_eq_next_iff _ _ _ _ _).mp h
  exact ⟨ha, (Host.Outcome.next.inj ht).symm⟩

/-- FX0A: no key down and nothing changed, or the lowest key read (44_timer_key_random.md R196). -/
theorem exec_ldVxKey_next {s t : State} {x : Reg} (h : exec (.ldVxKey x) s = .next t) :
    (s.keys = 0 ∧ t = s) ∨ ∃ k, s.lowestKey = some k ∧ t = (s.setReg x (BitVec.ofNat 8 k)).next := by
  rw [exec_ldVxKey] at h
  cases hk : s.lowestKey with
  | none =>
    rw [hk] at h
    exact .inl ⟨(lowestKey_eq_none_iff s).mp hk, (Host.Outcome.next.inj h).symm⟩
  | some k =>
    rw [hk] at h
    exact .inr ⟨k, rfl, (Host.Outcome.next.inj h).symm⟩

end Sys2Proof.Machine
end

