-- ==== Sys2Proof/Laws/PerInstr.lean ====
section
/-!
SUPPORT. The family EncodesInRow, one lemma per constructor: an instruction's word selects the instruction's row of the
opcode map (30_encoding.md R74).
-/

namespace Sys2Proof.Laws.EncodesInRow

/-- The word of an instruction has the fixed bits its row of R74 asks for. -/
def Statement (i : Instr) : Prop := (opcodeRow i).selects (encode i) = true

/-- A word of format NNN selects the row of its `op`. -/
theorem formNNN_selects {op : Nat} (nnn : Addr12) (h : op < 16) :
    OpcodeRow.selects ⟨0xF000, BitVec.ofNat 16 (op * 0x1000)⟩ (formNNN op nnn) = true := by
  have := nnn.isLt
  rw [selects_op, fieldOp_eq, formNNN_toNat nnn h, BitVec.toNat_ofNat, decide_eq_true_eq]
  omega

/-- A word of format XKK selects the row of its `op`. -/
theorem formXKK_selects {op : Nat} (x : Reg) (kk : Byte) (h : op < 16) :
    OpcodeRow.selects ⟨0xF000, BitVec.ofNat 16 (op * 0x1000)⟩ (formXKK op x kk) = true := by
  have := x.isLt
  have := kk.isLt
  rw [selects_op, fieldOp_eq, formXKK_toNat x kk h, BitVec.toNat_ofNat, decide_eq_true_eq]
  omega

/-- A word of format XY selects the row of its `op` and function nibble. -/
theorem formXYN_selects {op n : Nat} (x y : Reg) (h : op < 16) (hn : n < 16) :
    OpcodeRow.selects ⟨0xF00F, BitVec.ofNat 16 (op * 0x1000 + n)⟩ (formXYN op x y n) = true := by
  have := x.isLt
  have := y.isLt
  rw [selects_opN, fieldOp_eq, fieldN_val, formXYN_toNat x y h hn, BitVec.toNat_ofNat, decide_eq_true_eq]
  omega

/-- A word of format X selects the row of its `op` and function byte. -/
theorem formX_selects {op fn : Nat} (x : Reg) (h : op < 16) (hf : fn < 256) :
    OpcodeRow.selects ⟨0xF0FF, BitVec.ofNat 16 (op * 0x1000 + fn)⟩ (formX op x fn) = true := by
  have := x.isLt
  rw [selects_opKK, fieldOp_eq, fieldKK_toNat, formX_toNat x h hf, BitVec.toNat_ofNat, decide_eq_true_eq]
  omega

theorem cls : Statement .cls := by unfold Statement; decide
theorem ret : Statement .ret := by unfold Statement; decide
theorem jp (nnn : Addr12) : Statement (.jp nnn) := formNNN_selects (op := 0x1) nnn (by decide)
theorem call (nnn : Addr12) : Statement (.call nnn) := formNNN_selects (op := 0x2) nnn (by decide)
theorem seImm (x : Reg) (kk : Byte) : Statement (.seImm x kk) := formXKK_selects (op := 0x3) x kk (by decide)
theorem sneImm (x : Reg) (kk : Byte) : Statement (.sneImm x kk) := formXKK_selects (op := 0x4) x kk (by decide)
theorem seReg (x y : Reg) : Statement (.seReg x y) := formXYN_selects (op := 0x5) (n := 0x0) x y (by decide) (by decide)
theorem ldImm (x : Reg) (kk : Byte) : Statement (.ldImm x kk) := formXKK_selects (op := 0x6) x kk (by decide)
theorem addImm (x : Reg) (kk : Byte) : Statement (.addImm x kk) := formXKK_selects (op := 0x7) x kk (by decide)
theorem ldReg (x y : Reg) : Statement (.ldReg x y) := formXYN_selects (op := 0x8) (n := 0x0) x y (by decide) (by decide)
theorem orReg (x y : Reg) : Statement (.orReg x y) := formXYN_selects (op := 0x8) (n := 0x1) x y (by decide) (by decide)
theorem andReg (x y : Reg) : Statement (.andReg x y) := formXYN_selects (op := 0x8) (n := 0x2) x y (by decide) (by decide)
theorem xorReg (x y : Reg) : Statement (.xorReg x y) := formXYN_selects (op := 0x8) (n := 0x3) x y (by decide) (by decide)
theorem addReg (x y : Reg) : Statement (.addReg x y) := formXYN_selects (op := 0x8) (n := 0x4) x y (by decide) (by decide)
theorem subReg (x y : Reg) : Statement (.subReg x y) := formXYN_selects (op := 0x8) (n := 0x5) x y (by decide) (by decide)
theorem shrReg (x y : Reg) : Statement (.shrReg x y) := formXYN_selects (op := 0x8) (n := 0x6) x y (by decide) (by decide)
theorem subnReg (x y : Reg) : Statement (.subnReg x y) := formXYN_selects (op := 0x8) (n := 0x7) x y (by decide) (by decide)
theorem shlReg (x y : Reg) : Statement (.shlReg x y) := formXYN_selects (op := 0x8) (n := 0xE) x y (by decide) (by decide)
theorem sneReg (x y : Reg) : Statement (.sneReg x y) := formXYN_selects (op := 0x9) (n := 0x0) x y (by decide) (by decide)
theorem ldI (nnn : Addr12) : Statement (.ldI nnn) := formNNN_selects (op := 0xA) nnn (by decide)
theorem jpV0 (nnn : Addr12) : Statement (.jpV0 nnn) := formNNN_selects (op := 0xB) nnn (by decide)
theorem rnd (x : Reg) (kk : Byte) : Statement (.rnd x kk) := formXKK_selects (op := 0xC) x kk (by decide)
theorem drw (x y : Reg) (n : Nibble) : Statement (.drw x y n) := by
  have := x.isLt
  have := y.isLt
  have := n.isLt
  show OpcodeRow.selects ⟨0xF000, 0xD000⟩ (formXYN 0xD x y n.val) = true
  rw [selects_op, fieldOp_eq, formXYN_toNat x y (by decide) n.isLt, decide_eq_true_eq]
  show _ = 0xD000
  omega
theorem skp (x : Reg) : Statement (.skp x) := formX_selects (op := 0xE) (fn := 0x9E) x (by decide) (by decide)
theorem sknp (x : Reg) : Statement (.sknp x) := formX_selects (op := 0xE) (fn := 0xA1) x (by decide) (by decide)
theorem ldVxDt (x : Reg) : Statement (.ldVxDt x) := formX_selects (op := 0xF) (fn := 0x07) x (by decide) (by decide)
theorem ldVxKey (x : Reg) : Statement (.ldVxKey x) := formX_selects (op := 0xF) (fn := 0x0A) x (by decide) (by decide)
theorem ldDtVx (x : Reg) : Statement (.ldDtVx x) := formX_selects (op := 0xF) (fn := 0x15) x (by decide) (by decide)
theorem ldStVx (x : Reg) : Statement (.ldStVx x) := formX_selects (op := 0xF) (fn := 0x18) x (by decide) (by decide)
theorem addI (x : Reg) : Statement (.addI x) := formX_selects (op := 0xF) (fn := 0x1E) x (by decide) (by decide)
theorem ldGlyph (x : Reg) : Statement (.ldGlyph x) := formX_selects (op := 0xF) (fn := 0x29) x (by decide) (by decide)
theorem ldBcd (x : Reg) : Statement (.ldBcd x) := formX_selects (op := 0xF) (fn := 0x33) x (by decide) (by decide)
theorem storeRegs (x : Reg) : Statement (.storeRegs x) := formX_selects (op := 0xF) (fn := 0x55) x (by decide) (by decide)
theorem loadRegs (x : Reg) : Statement (.loadRegs x) := formX_selects (op := 0xF) (fn := 0x65) x (by decide) (by decide)

end Sys2Proof.Laws.EncodesInRow
end

