-- ==== Sys2Proof/Laws/Ports.lean ====
section
/-!
SUPPORT. What each port of the block can do (60_exceptions.md R225), said once.
-/

namespace Sys2Proof.Machine

theorem tick_of_next {s t : State} (h : step s = .next t) : tick s = (.ok, t) := by simp [tick, h]

theorem tick_of_fault {s : State} {e : Fault} (h : step s = .fault e) : tick s = (.raised e, s) := by simp [tick, h]

/-- The state after a tick: a step's next state, or the state before it (R215). -/
theorem tick_state (s : State) : step s = .next (tick s).2 ∨ (tick s).2 = s := by
  unfold tick
  cases h : step s <;> simp

/-- What a load that is not refused does (70_reset_and_hazards.md R241). -/
theorem loadProgram_eq_next_iff (bytes : List Byte) (s t : State) : loadProgram bytes s = .next t ↔
    bytes.length ≤ progMax ∧ t = (s.writeBytes progBase bytes).setPc (BitVec.ofNat 16 progBase) := by
  unfold loadProgram programFits
  by_cases h : bytes.length ≤ progMax <;> simp [h]
  exact eq_comm

theorem loadProgram_ne_fault (bytes : List Byte) (s : State) (e : Fault) : loadProgram bytes s ≠ .fault e := by
  unfold loadProgram
  split <;> simp

/-- What a port call can do when it is not refused. -/
theorem portCall_eq_next {c : PortCall} {s t : State} {r : PortReply} (h : portCall c s = .next (r, t)) :
    (∃ seed, t = State.initial s.params seed) ∨
      (∃ bytes, t = (s.writeBytes progBase bytes).setPc (BitVec.ofNat 16 progBase)) ∨
      step s = .next t ∨ t = s ∨ ∃ k, t = s.setKeys k := by
  cases c with
  | start seed => cases h; exact .inl ⟨seed, rfl⟩
  | load bytes =>
    simp only [portCall] at h
    cases hl : loadProgram bytes s with
    | next u =>
      rw [hl] at h
      cases h
      exact .inr (.inl ⟨bytes, ((loadProgram_eq_next_iff bytes s t).mp hl).2⟩)
    | fault e => rw [hl] at h; cases h
    | refused e => rw [hl] at h; cases h
  | tick =>
    cases h
    rcases tick_state s with h | h
    · exact .inr (.inr (.inl h))
    · exact .inr (.inr (.inr (.inl h)))
  | readFrame => cases h; exact .inr (.inr (.inr (.inl rfl)))
  | press k => cases h; exact .inr (.inr (.inr (.inr ⟨_, rfl⟩)))
  | release k => cases h; exact .inr (.inr (.inr (.inr ⟨_, rfl⟩)))

end Sys2Proof.Machine
end

