-- ==== Sys2Proof/Tests/Slice0.lean ====
section
/-!
SUPPORT. Tests of the model, and for every statement with hypotheses a witness that meets them. Every expected value is
from spec/95_test_vectors.md, whose vector each docstring names, or is written out by hand from the rule it names.
-/

namespace Sys2Proof.Tests

open Sys2Proof Sys2Proof.Machine Sys2Proof.Claims

/-! ### Building small states, and asking for one step -/

/-- The state after `initialize(1)` and a load of an empty program: `PC` = 0x200. -/
def fresh : State := State.reset.setPc 0x200

/-- Registers set. -/
def withRegs (s : State) (l : List (Reg × Byte)) : State := l.foldl (fun s p => s.setReg p.1 p.2) s

/-- The fresh state with the parameters changed. -/
def freshWith (oob : OobPolicy) (ovf : IndexOverflow) : State :=
  { fresh with params := { defaultParams with oob := oob, iOverflow := ovf } }

/-- The state after one `Ok` tick of the word placed at `PC`. -/
def ran (w : Nat) (s : State) : Option State :=
  match step (s.withFetchWord 16 w) with
  | .next t => some t
  | .fault _ => none
  | .refused _ => none

/-- What one tick of the word placed at `PC` raises. -/
def raisedBy (w : Nat) (s : State) : Option Fault :=
  match step (s.withFetchWord 16 w) with
  | .next _ => none
  | .fault e => some e
  | .refused _ => none

/-! ### WellFormed refuses an ill-formed term, check by check -/

/-- A shift amount of 0, and one of 64, are no fixed shift of 1 to 63 (R191). -/
theorem test_wf_shift_amount : XorShift.wf ⟨.left, 0⟩ = false ∧ XorShift.wf ⟨.right, 64⟩ = false ∧
    XorShift.wf ⟨.left, 1⟩ = true ∧ XorShift.wf ⟨.right, 63⟩ = true := by decide

/-- Each of the three steps is checked. -/
theorem test_wf_each_step : Params.wf { defaultParams with rng1 := ⟨.left, 0⟩ } = false ∧
    Params.wf { defaultParams with rng2 := ⟨.left, 0⟩ } = false ∧ Params.wf { defaultParams with rng3 := ⟨.left, 64⟩ } = false := by
  decide

/-- A stack of depth 0 (R7). -/
theorem test_wf_stack_depth : Params.wf { defaultParams with stackDepth := 0 } = false := by decide

/-- A glyph area of 75 bytes (R25). -/
theorem test_wf_glyph_length : Params.wf { defaultParams with glyphRom := defaultParams.glyphRom.take 75 } = false := by decide

/-- A glyph area whose first glyph is not the digit 0 of the document (R25). -/
theorem test_wf_glyph_zero : Params.wf { defaultParams with glyphRom := List.replicate 80 0 } = false := by decide

/-- The defaults are admissible. -/
theorem test_wf_defaults : Params.wf defaultParams = true := by decide

/-- A program of 3585 bytes does not fit, one of 3584 does (R241, R242). -/
theorem test_wf_program : programFits (List.replicate 3585 0) = false ∧ programFits (List.replicate 3584 0) = true := by
  simp only [programFits, List.length_replicate]
  decide

/-! ### Decode: every constructor, from its row of R74 written out bit by bit -/

theorem test_decode_flow :
    decodeWord 0b0000000011100000 = some .cls ∧ decodeWord 0b0000000011101110 = some .ret ∧
      decodeWord 0b0001101010111100 = some (.jp 0xABC) ∧ decodeWord 0b0010101010111100 = some (.call 0xABC) ∧
      decodeWord 0b0011101000111100 = some (.seImm 0xA 0x3C) ∧ decodeWord 0b0100101000111100 = some (.sneImm 0xA 0x3C) ∧
      decodeWord 0b0101101010110000 = some (.seReg 0xA 0xB) ∧ decodeWord 0b1001101010110000 = some (.sneReg 0xA 0xB) ∧
      decodeWord 0b1011101010111100 = some (.jpV0 0xABC) := by decide

theorem test_decode_alu :
    decodeWord 0b0110101000111100 = some (.ldImm 0xA 0x3C) ∧ decodeWord 0b0111101000111100 = some (.addImm 0xA 0x3C) ∧
      decodeWord 0b1000101010110000 = some (.ldReg 0xA 0xB) ∧ decodeWord 0b1000101010110001 = some (.orReg 0xA 0xB) ∧
      decodeWord 0b1000101010110010 = some (.andReg 0xA 0xB) ∧ decodeWord 0b1000101010110011 = some (.xorReg 0xA 0xB) ∧
      decodeWord 0b1000101010110100 = some (.addReg 0xA 0xB) ∧ decodeWord 0b1000101010110101 = some (.subReg 0xA 0xB) ∧
      decodeWord 0b1000101010110110 = some (.shrReg 0xA 0xB) ∧ decodeWord 0b1000101010110111 = some (.subnReg 0xA 0xB) ∧
      decodeWord 0b1000101010111110 = some (.shlReg 0xA 0xB) := by decide

theorem test_decode_index_memory :
    decodeWord 0b1010101010111100 = some (.ldI 0xABC) ∧ decodeWord 0b1111101000011110 = some (.addI 0xA) ∧
      decodeWord 0b1111101000101001 = some (.ldGlyph 0xA) ∧ decodeWord 0b1111101000110011 = some (.ldBcd 0xA) ∧
      decodeWord 0b1111101001010101 = some (.storeRegs 0xA) ∧ decodeWord 0b1111101001100101 = some (.loadRegs 0xA) := by decide

theorem test_decode_display_timer_key_random :
    decodeWord 0b1101101010110101 = some (.drw 0xA 0xB 5) ∧ decodeWord 0b1100101000111100 = some (.rnd 0xA 0x3C) ∧
      decodeWord 0b1110101010011110 = some (.skp 0xA) ∧ decodeWord 0b1110101010100001 = some (.sknp 0xA) ∧
      decodeWord 0b1111101000000111 = some (.ldVxDt 0xA) ∧ decodeWord 0b1111101000001010 = some (.ldVxKey 0xA) ∧
      decodeWord 0b1111101000010101 = some (.ldDtVx 0xA) ∧ decodeWord 0b1111101000011000 = some (.ldStVx 0xA) := by decide

/-- The illegal words of 2.1. -/
theorem test_decode_illegal :
    [0x0000, 0x00E1, 0x00FE, 0x01E0, 0x0123, 0x0FFF, 0x5001, 0x5ABF, 0xF090, 0xF085, 0x8AB8, 0x8ABD, 0x8ABF, 0x9AB1, 0xE19F,
      0xE100, 0xF000, 0xF166, 0xF075, 0xFFFF].all (fun w : Word => (decodeWord w).isNone) = true := by decide

/-- The encoder writes the words of 2.1 and of S4, S6. -/
theorem test_encode : encode .cls = 0x00E0 ∧ encode (.subnReg 0xA 0xB) = 0x8AB7 ∧ encode (.ldImm 0xA 0x3C) = 0x6A3C ∧
    encode (.drw 0 0 5) = 0xD005 ∧ encode (.storeRegs 0xF) = 0xFF55 ∧ encode (.jp 0) = 0x1000 := by decide

/-- Bytes: the first is the more significant (R54), what follows is left; one byte alone is rejected by name. -/
theorem test_decode_bytes : decode [0x6A, 0x3C, 0x12] = .ok (.ldImm 0xA 0x3C, [0x12]) ∧
    decode [0x50, 0x01] = .error (.undefinedOp 0x5001) ∧ decode [0x12] = .error .truncated := ⟨rfl, rfl, rfl⟩

/-- Every row of the opcode map is at some constructor, as the host asks. -/
theorem test_decodeTableWord : decodeTableWord 16 0xD125 = some (.drw 1 2 5) ∧ decodeTableWord 16 0x5001 = none := by decide

/-! ### Control transfer and skips (2.2) -/

/-- F3, F2. -/
theorem test_jp : (ran 0x1200 fresh).map (·.pc) = some 0x0200 ∧ (ran 0x1201 fresh).map (·.pc) = some 0x0201 := by decide

/-- F5, F6. -/
theorem test_call : (ran 0x2ABC (fresh.setStack [0x300])).map (fun t => (t.pc, t.stack)) = some (0x0ABC, [0x300, 0x202]) ∧
    (ran 0x2300 (fresh.setPc 0xFFE)).map (fun t => (t.pc, t.stack)) = some (0x300, [0x1000]) := by decide

/-- F7. -/
theorem test_call_full : raisedBy 0x2200 (fresh.setStack (List.replicate 16 0x202)) = some .stackOverflow := by decide

/-- F9. -/
theorem test_ret : (ran 0x00EE (fresh.setStack [0x210, 0x456])).map (fun t => (t.pc, t.stack)) = some (0x456, [0x210]) := by decide

/-- F11. -/
theorem test_ret_empty : raisedBy 0x00EE fresh = some .poppedEmptyStack := by decide

/-- F13, F15. -/
theorem test_jpV0 : (ran 0xB300 (withRegs fresh [(3, 0x55)])).map (·.pc) = some 0x300 ∧
    (ran 0xBFFF (withRegs fresh [(0, 0xFF)])).map (·.pc) = some 0x10FE := by decide

/-- F16, F17. -/
theorem test_seImm : (ran 0x3A3C (withRegs fresh [(0xA, 0x3C)])).map (·.pc) = some 0x204 ∧
    (ran 0x3A3C (withRegs fresh [(0xA, 0x3D)])).map (·.pc) = some 0x202 := by decide

/-- F18, F19. -/
theorem test_sneImm : (ran 0x4A3C (withRegs fresh [(0xA, 0x3C)])).map (·.pc) = some 0x202 ∧
    (ran 0x4A3C (withRegs fresh [(0xA, 0x3D)])).map (·.pc) = some 0x204 := by decide

/-- F21, F22. -/
theorem test_seReg : (ran 0x5120 (withRegs fresh [(1, 7), (2, 7)])).map (·.pc) = some 0x204 ∧
    (ran 0x5120 (withRegs fresh [(1, 7), (2, 8)])).map (·.pc) = some 0x202 := by decide

/-- F24, F25. -/
theorem test_sneReg : (ran 0x9120 (withRegs fresh [(1, 7), (2, 7)])).map (·.pc) = some 0x202 ∧
    (ran 0x9120 (withRegs fresh [(1, 7), (2, 8)])).map (·.pc) = some 0x204 := by decide

/-- F28: a skip at an odd address past the end of memory is itself `Ok`. -/
theorem test_skip_past_end : (ran 0x3000 (fresh.setPc 0xFFD)).map (·.pc) = some 0x1001 := by decide

/-! ### Register load and arithmetic (2.3) -/

/-- `V[1]`, `VF` after a word, from `V[1]` = a, `V[2]` = b, `VF` = 0xEE. -/
def alu (w : Nat) (a b : Byte) : Option (Byte × Byte) :=
  (ran w (withRegs fresh [(1, a), (2, b), (15, 0xEE)])).map fun t => (t.reg 1, t.reg 15)

/-- S4. -/
theorem test_ldImm : (ran 0x6A3C fresh).map (fun t => (t.reg 0xA, t.pc)) = some (0x3C, 0x202) := by decide

/-- 2.3, first table: a wrap with no flag, and `VF` as destination. -/
theorem test_addImm : (ran 0x7301 (withRegs fresh [(3, 0xFF), (15, 0xEE)])).map (fun t => (t.reg 3, t.reg 15)) = some (0, 0xEE) ∧
    (ran 0x7F01 (withRegs fresh [(15, 0xFF)])).map (·.reg 15) = some 0 := by decide

theorem test_ldReg : alu 0x8120 0x0F 0xF0 = some (0xF0, 0xEE) := by decide
theorem test_orReg : alu 0x8121 0x03 0x0A = some (0x0B, 0) := by decide
theorem test_andReg : alu 0x8122 0x03 0x0A = some (0x02, 0) := by decide
theorem test_xorReg : alu 0x8123 0x03 0x0A = some (0x09, 0) := by decide
theorem test_addReg : alu 0x8124 0xFF 0x01 = some (0, 1) ∧ alu 0x8124 0xAA 0x55 = some (0xFF, 0) := by decide
theorem test_subReg : alu 0x8125 0x03 0x0A = some (0xF9, 0) ∧ alu 0x8125 0x05 0x05 = some (0, 0) := by decide
theorem test_shrReg : alu 0x8126 0x0F 0xF0 = some (0x78, 0) ∧ alu 0x8126 0xFF 0x01 = some (0, 1) := by decide
theorem test_subnReg : alu 0x8127 0x03 0x0A = some (0x07, 1) ∧ alu 0x8127 0x05 0x05 = some (0, 0) := by decide
theorem test_shlReg : alu 0x812E 0x0F 0xF0 = some (0xE0, 1) ∧ alu 0x812E 0x03 0x0A = some (0x14, 0) := by decide

/-- 2.3, last table: `VF` as destination (8F14) and as source (81F6). -/
theorem test_flag_last : (ran 0x8F14 (withRegs fresh [(15, 0x10), (1, 0x20)])).map (·.reg 15) = some 0 ∧
    (ran 0x81F6 (withRegs fresh [(15, 0x03)])).map (fun t => (t.reg 1, t.reg 15)) = some (1, 1) := by decide

/-! ### Index register, loads and stores (2.4) -/

/-- M1. -/
theorem test_ldI : (ran 0xA123 fresh).map (·.i) = some 0x123 := by decide

/-- M3, M5. -/
theorem test_addI : (ran 0xF31E (withRegs (fresh.setI 0xFFF) [(3, 1)])).map (·.i) = some 0x1000 ∧
    (ran 0xF31E (withRegs (fresh.setI 0xFFFF) [(3, 1)])).map (·.i) = some 0 := by decide

/-- R152 under `I_OVERFLOW` = `fault`, at the carry. -/
theorem test_addI_fault : raisedBy 0xF31E (withRegs ((freshWith .fault .fault).setI 0xFFFF) [(3, 1)]) = some .indexOverflow := by
  decide

/-- M8: no nibble mask. -/
theorem test_ldGlyph : (ran 0xF429 (withRegs fresh [(4, 0x0F)])).map (·.i) = some 0x4B ∧
    (ran 0xF429 (withRegs fresh [(4, 0xFF)])).map (·.i) = some 0x4FB := by decide

/-- M15, M17. -/
theorem test_ldBcd :
    (ran 0xF533 (withRegs (fresh.setI 0x400) [(5, 0xFF)])).map (fun t => (t.readBytes 0x400 4, t.i)) = some ([2, 5, 5, 0], 0x400) ∧
      raisedBy 0xF533 (withRegs (fresh.setI 0xFFE) [(5, 0xFF)]) = some (.addressFault 0x1000) := by decide

/-- M19. -/
theorem test_storeRegs :
    (ran 0xF355 (withRegs (fresh.setI 0x400) [(0, 0x11), (1, 0x22), (2, 0x33), (3, 0x44), (4, 0x55)])).map
      (fun t => (t.readBytes 0x400 5, t.i)) = some ([0x11, 0x22, 0x33, 0x44, 0], 0x401) := by decide

/-- M22. -/
theorem test_storeRegs_fault : raisedBy 0xFF55 (fresh.setI 0xFF1) = some (.addressFault 0x1000) := by decide

/-- M24, the bytes the document gives, and M25. -/
theorem test_loadRegs : (ran 0xFF65 fresh).map (fun t => (t.reg 0, t.reg 1, t.reg 4, t.i)) = some (0xF0, 0x90, 0xF0, 1) ∧
    (ran 0xF065 ((withRegs (fresh.setI 0xFFF) [(0, 0x99)]).writeByte 0xFFF 0x12)).map (fun t => (t.reg 0, t.i)) =
      some (0x12, 0x1000) := by decide

/-- M26. -/
theorem test_loadRegs_fault : raisedBy 0xF165 (fresh.setI 0xFFF) = some (.addressFault 0x1000) := by decide

/-- R55 under `wrap12`: the store of M22 wraps to address 0. -/
theorem test_wrap12 : (ran 0xF155 (withRegs ((freshWith .wrap12 .wrap16).setI 0xFFF) [(0, 0x11), (1, 0x22)])).map
    (fun t => (t.readByte 0xFFF, t.readByte 0)) = some (0x11, 0x22) := by decide

/-! ### Framebuffer (2.5) -/

/-- `Line`: the table of 2.5. -/
theorem test_spriteLine : spriteLine 0xF0 62 = 3 ∧ spriteLine 0x81 57 = 0x40 ∧ spriteLine 0xFF 63 = 1 ∧ spriteLine 0x01 57 = 0 ∧
    spriteLine 0xA5 30 = 0x0000000294000000 := by decide

/-- G16: `VF` is not touched. -/
theorem test_cls : (ran 0x00E0 ((withRegs fresh [(15, 1)]).setRow 31 1)).map (fun t => (t.row 31, t.reg 15)) = some (0, 1) := by
  decide

/-- G4, where the last row collides, and G3, where only the first does. -/
theorem test_drw :
    (ran 0xD012 ((((fresh.setI 0x300).writeByte 0x300 0xFF).writeByte 0x301 1).setRow 1 0x0100000000000000)).map
        (fun t => (t.row 0, t.row 1, t.reg 15)) = some (0xFF00000000000000, 0, 1) ∧
      (ran 0xD012 ((((fresh.setI 0x300).writeByte 0x300 0xFF).writeByte 0x301 1).setRow 0 0x8000000000000000)).map
        (fun t => (t.row 0, t.row 1, t.reg 15)) = some (0x7F00000000000000, 0x0100000000000000, 0) := by decide

/-- G12: the third row is clipped and not read, so it does not fault; G11: it does where it would be drawn. -/
theorem test_drw_clip :
    (ran 0xD013 ((withRegs (fresh.setI 0xFFE) [(1, 0x1E)]).writeBytes 0xFFE [0x80, 0x40])).map (fun t => (t.row 30, t.row 31)) =
        some (0x8000000000000000, 0x4000000000000000) ∧
      raisedBy 0xD013 (fresh.setI 0xFFE) = some (.addressFault 0x1000) := by decide

/-! ### Random, keys, timers (2.6) -/

/-- K2, K3: the random state advances whatever `kk` is. -/
theorem test_rnd : (ran 0xC30F fresh).map (fun t => (t.reg 3, t.rng)) = some (0x01, 0x40822041) ∧
    (ran 0xC300 fresh).map (fun t => (t.reg 3, t.rng)) = some (0, 0x40822041) := by decide

/-- The second row of the random table from the first, seed 0x123456789ABCDEF0. -/
theorem test_rngStep : rngStep defaultParams 0x123456789ABCDEF0 = 0xFE800D6569FA1B4D ∧
    rngStep defaultParams 0xFE800D6569FA1B4D = 0x0CE7C497A6B09C3B := by decide

/-- K7, K9: a number above 15 is not masked. -/
theorem test_skp : (ran 0xE19E (withRegs (fresh.setKeys 0x20) [(1, 5)])).map (·.pc) = some 0x204 ∧
    (ran 0xE19E (withRegs (fresh.setKeys 0x20) [(1, 0x15)])).map (·.pc) = some 0x202 := by decide

/-- K13, K15. -/
theorem test_sknp : (ran 0xE1A1 (withRegs (fresh.setKeys 0x20) [(1, 5)])).map (·.pc) = some 0x202 ∧
    (ran 0xE1A1 (withRegs (fresh.setKeys 0xFFFF) [(1, 0x10)])).map (·.pc) = some 0x204 := by decide

/-- K17: a waiting tick is `Ok` and counts down. -/
theorem test_ldVxKey_wait :
    (ran 0xF30A ((withRegs fresh [(3, 0xEE)]).setDt 2)).map (fun t => (t.pc, t.reg 3, t.dt)) = some (0x200, 0xEE, 1) := by decide

/-- K20: the lowest key of two. -/
theorem test_ldVxKey : (ran 0xF30A (fresh.setKeys 0x280)).map (fun t => (t.reg 3, t.pc)) = some (7, 0x202) := by decide

/-- K23. -/
theorem test_ldVxDt : (ran 0xF207 ((fresh.setDt 3).setSt 1)).map (fun t => (t.reg 2, t.dt, t.st)) = some (3, 2, 0) := by decide

/-- K25. -/
theorem test_ldDtVx : (ran 0xF115 (withRegs (fresh.setDt 9) [(1, 5)])).map (·.dt) = some 4 ∧
    (ran 0xF115 (withRegs (fresh.setDt 9) [(1, 0)])).map (·.dt) = some 0 := by decide

/-- K26. -/
theorem test_ldStVx : (ran 0xF118 (withRegs (fresh.setSt 9) [(1, 0xFF)])).map (·.st) = some 0xFE ∧
    (ran 0xF118 (withRegs (fresh.setSt 9) [(1, 1)])).map (·.st) = some 0 := by decide

/-! ### Ports and errors (2.7) -/

/-- K28, S8: an illegal word, with no count-down. -/
theorem test_illegal : raisedBy 0x5001 fresh = some (.undefinedOp 0x5001) ∧
    (tick ((fresh.setDt 2).withFetchWord 16 0)).2.dt = 2 := by decide

/-- H3: a tick with no load. -/
theorem test_tick_before_load : tick State.reset = (.raised (.undefinedOp 0xF090), State.reset) := by decide

/-- H6. -/
theorem test_keys : (pressKey 7 fresh).keys = 0x80 ∧ (pressKey 9 (pressKey 7 fresh)).keys = 0x280 ∧
    (releaseKey 9 (pressKey 9 (pressKey 7 fresh))).keys = 0x80 ∧ (releaseKey 3 (pressKey 7 fresh)).keys = 0x80 := by decide

/-- H2. -/
theorem test_reset : State.reset.readBytes 0 5 = [0xF0, 0x90, 0x90, 0x90, 0xF0] ∧ State.reset.readByte 0x50 = 0 ∧
    State.reset.readByte 0x200 = 0 ∧ State.reset.pc = 0 ∧ State.reset.rng = 1 := by decide

/-- H7: a load after a run changes memory from 0x200 and `PC` only. -/
theorem test_load : (portCalls ((fresh.setDt 9).setPc 0x345) [.load [0x12, 0x00]]).map (fun t => (t.pc, t.readBytes 0x200 2, t.dt)) =
    some (0x200, [0x12, 0x00], 9) := by decide

/-- The host's view: a placed word is what the first step after reset runs (PC = 0 there, R240). -/
theorem test_placed_at_reset : (ran 0x6A3C State.reset).map (fun t => (t.reg 0xA, t.pc)) = some (0x3C, 0x002) := by decide

/-! ### Witnesses: for every statement with hypotheses, a state and operands that meet all of them together -/

/-- EncodeOfDecodeIsTheWord, each clause; DecodeFollowsTheOpcodeMap, first clause. -/
theorem witness_legal_word : decodeWord 0x1000 = some (.jp 0) ∧ decodeWord 0x5AB0 = some (.seReg 0xA 0xB) ∧
    decodeWord 0x9AB0 = some (.sneReg 0xA 0xB) ∧ decodeWord 0x00E0 = some .cls ∧ decodeWord 0x00EE = some .ret := by decide

/-- OpcodeRowsAreDisjoint: a row of the map that a word selects; and, for the second clause of DecodeFollowsTheOpcodeMap,
a word that selects none. -/
theorem witness_row : (∃ r ∈ opcodeTable, r.selects 0x8AB7 = true) ∧ ∀ r ∈ opcodeTable, r.selects 0x8AB8 = false := by
  refine ⟨⟨opcodeRow (.subnReg 0xA 0xB), by decide, by decide⟩, by decide⟩

/-- StepRunsTheDecodedInstruction, at the last address that may be fetched, and with the fetch wrapping. -/
theorem witness_step :
    (Fetchable ((fresh.setPc 0xFFE).withFetchWord 16 0x2300) ∧
      decodeWord (joinBytes (((fresh.setPc 0xFFE).withFetchWord 16 0x2300).readByte 0xFFE)
        (((fresh.setPc 0xFFE).withFetchWord 16 0x2300).readByte 0xFFF)) = some (.call 0x300)) ∧
    Fetchable (((freshWith .wrap12 .wrap16).setPc 0xFFFF).withFetchWord 16 0x2300) ∧
      decodeWord (((freshWith .wrap12 .wrap16).setPc 0xFFFF).withFetchWord 16 0x2300).fetchWord = some (.call 0x300) :=
  ⟨⟨.inr (by decide), by decide⟩, .inl rfl, by decide⟩

/-- FetchOutsideMemoryFaults, at both its boundary values and at the top. -/
theorem witness_fetch_outside : (fresh.setPc 0xFFF).params.oob = .fault ∧ 0x0FFF ≤ (fresh.setPc 0xFFF).pc.toNat ∧
    0x0FFF ≤ (fresh.setPc 0x1000).pc.toNat ∧ 0x0FFF ≤ (fresh.setPc 0xFFFF).pc.toNat := by decide

/-- IllegalWordRaisesUndefinedOp, both clauses. -/
theorem witness_illegal : Fetchable (fresh.withFetchWord 16 0x5001) ∧
    (∀ r ∈ opcodeTable, r.selects (fresh.withFetchWord 16 0x5001).fetchWord = false) ∧
    step (fresh.withFetchWord 16 0x5001) = .fault (.undefinedOp 0x5001) := ⟨.inr (by decide), by decide, rfl⟩

/-- ReturnOnEmptyStackRaises, both clauses. -/
theorem witness_ret_empty : (Fetchable (fresh.withFetchWord 16 0x00EE) ∧
      decodeWord (fresh.withFetchWord 16 0x00EE).fetchWord = some .ret ∧ (fresh.withFetchWord 16 0x00EE).sp = 0) ∧
    exec .ret fresh = .fault .poppedEmptyStack := ⟨⟨.inr (by decide), by decide, rfl⟩, rfl⟩

/-- OkTickCountsBothTimersDown, StepKeepsTheInvariant: an `Ok` tick from a state that meets the invariant. -/
theorem witness_ok_tick : (fresh.withFetchWord 16 0x6A3C).Inv ∧ ∃ t, step (fresh.withFetchWord 16 0x6A3C) = .next t :=
  ⟨⟨by decide, by decide, by decide⟩, _, rfl⟩

/-- FailingTickLeavesTheState. -/
theorem witness_failing_tick : ∃ t, tick fresh = (.raised (.undefinedOp 0), t) ∧ TickResult.raised (.undefinedOp 0) ≠ .ok :=
  ⟨fresh, by decide, by decide⟩

/-- InstructionsCompleteExactlyWhen, right to left, each condition at its boundary: one entry, one place free, the last byte
of memory, a sum of 65535 under `I_OVERFLOW` = `fault`. -/
theorem witness_conditions :
    (fresh.setStack [0x210]).sp ≠ 0 ∧ (fresh.setStack (List.replicate 15 0x202)).sp ≠ fresh.params.stackDepth ∧
      Accessible (fresh.setI 0xFF0) (dataLength (fresh.setI 0xFF0) (.storeRegs 15)) ∧
      IndexCanAdd (withRegs ((freshWith .fault .fault).setI 0xFFFE) [(3, 1)])
        (indexAddend (withRegs ((freshWith .fault .fault).setI 0xFFFE) [(3, 1)]) (.addI 3)) :=
  ⟨by decide, by decide, .inr (.inr (by decide)), .inr (by decide)⟩

/-- InstructionsCompleteExactlyWhen, left to right: an instruction of each shape that completes. -/
theorem witness_completes : (∃ t, exec .cls fresh = .next t) ∧ (∃ t, exec .ret (fresh.setStack [0x210]) = .next t) ∧
    (∃ t, exec (.call 0xABC) fresh = .next t) ∧ (∃ t, exec (.drw 0 0 5) fresh = .next t) ∧
    (∃ t, exec (.ldBcd 5) (fresh.setI 0xFFD) = .next t) ∧ (∃ t, exec (.storeRegs 15) (fresh.setI 0xFF0) = .next t) ∧
    (∃ t, exec (.loadRegs 15) (fresh.setI 0xFF0) = .next t) ∧ ∃ t, exec (.addI 3) fresh = .next t :=
  ⟨⟨_, rfl⟩, ⟨_, rfl⟩, ⟨_, rfl⟩, ⟨_, rfl⟩, ⟨_, rfl⟩, ⟨_, rfl⟩, ⟨_, rfl⟩, ⟨_, rfl⟩⟩

/-- DataAccessOutsideMemoryFaults: a run one byte too long, and a sprite. -/
theorem witness_data_outside : (fresh.setI 0xFF1).params.oob = .fault ∧ dataLength (fresh.setI 0xFF1) (.storeRegs 15) ≠ 0 ∧
    0x1000 < (fresh.setI 0xFF1).i.toNat + dataLength (fresh.setI 0xFF1) (.storeRegs 15) ∧
    dataLength (fresh.setI 0x1234) (.drw 0 1 1) ≠ 0 ∧
    0x1000 < (fresh.setI 0x1234).i.toNat + dataLength (fresh.setI 0x1234) (.drw 0 1 1) := by decide

/-- FaultAddressIsTheLowestOutside: a range that begins inside memory, and one that begins outside. -/
theorem witness_fault_address : accessFault defaultParams 0xFFE 3 = some 0x1000 ∧ accessFault defaultParams 0x1234 1 = some 0x1234 := by
  decide

/-- ResetMeetsTheInvariant, InitializeGivesTheResetValues, TickBeforeLoadRaisesUndefinedOp: admissible parameters. -/
theorem witness_params : defaultParams.wf = true := by decide

/-- EveryReachableStateMeetsTheInvariant: every port called. -/
theorem witness_reachable : ∃ s, Reachable s ∧ s.pc = 0x202 :=
  ⟨_, ⟨defaultParams, 1, [.start 5, .load [0x6A, 0x3C], .press 7, .tick, .readFrame, .release 7], by decide, rfl⟩, by decide⟩

/-- InstructionsChangeOnlyWhatTheyWrite, FlagsAreZeroOrOne: a flag writer, and a sprite that draws a row. -/
theorem witness_flag_writers : (∃ t, exec (.addReg 1 2) fresh = .next t) ∧
    (∃ t, exec (.drw 0 0 5) fresh = .next t) ∧ dataLength fresh (.drw 0 0 5) ≠ 0 := ⟨⟨_, rfl⟩, ⟨_, rfl⟩, by decide⟩

/-- CanonicalMemoryIsDetermined: a listing in canonical form that lists something, at both ends of memory. -/
theorem witness_canonical : Memory.wf defaultParams [(0, 1), (0x50, 1), (0xFFF, 2)] = true ∧
    ∀ a, a < 0x1000 → memRead defaultParams [(0, 1), (0x50, 1), (0xFFF, 2)] a = memRead defaultParams [(0, 1), (0x50, 1), (0xFFF, 2)] a :=
  ⟨by decide, fun _ _ => rfl⟩

/-- StoreThenReadGivesTheByte: the two ends of memory, each another address than the other. -/
theorem witness_addresses : (0 : Nat) < 0x1000 ∧ 0xFFF < 0x1000 ∧ 0xFFF ≠ 0 := by decide

/-- CallPushesTheReturnAddress: a stack with one place free, and a full one. -/
theorem witness_call : (fresh.setStack (List.replicate 15 0x202)).sp ≠ (fresh.setStack (List.replicate 15 0x202)).params.stackDepth ∧
    (fresh.setStack (List.replicate 16 0x202)).sp = (fresh.setStack (List.replicate 16 0x202)).params.stackDepth := by decide

/-- ReturnPopsTheNewestEntry: a stack with one entry, and an empty one. -/
theorem witness_ret : (fresh.setStack [0x210]).stack = [] ++ [0x210] ∧ fresh.stack = [] := by decide

/-- CallThenReturnComesBack. -/
theorem witness_call_then_ret : ∃ t, exec (.call 0x204) fresh = .next t ∧ (t.setPc 0x204).stack = t.stack := ⟨_, rfl, rfl⟩

/-- AddToIndexIsSixteenBits: the largest sum that does not carry, and the first that does, under `fault`; a carry under
`wrap16`. -/
theorem witness_addI :
    IndexCanAdd (withRegs ((freshWith .fault .fault).setI 0xFF00) [(3, 0xFF)])
        ((withRegs ((freshWith .fault .fault).setI 0xFF00) [(3, 0xFF)]).reg 3).toNat ∧
      (freshWith .fault .fault).params.iOverflow = .fault ∧
      65536 ≤ (withRegs ((freshWith .fault .fault).setI 0xFF01) [(3, 0xFF)]).i.toNat +
        ((withRegs ((freshWith .fault .fault).setI 0xFF01) [(3, 0xFF)]).reg 3).toNat ∧
      IndexCanAdd (fresh.setI 0xFFFF) 255 := ⟨.inr (by decide), rfl, by decide, .inl rfl⟩

/-- DecimalStoreWritesThreeDigits: the last address that goes through, and any under `wrap12`; an address outside the three. -/
theorem witness_bcd : Accessible (fresh.setI 0xFFD) 3 ∧ Accessible ((freshWith .wrap12 .wrap16).setI 0xFFFF) 3 ∧
    ∀ k, k < 3 → cellOf ((fresh.setI 0xFFD).dataAddr k) ≠ cellOf 0xFFC := ⟨.inr (.inr (by decide)), .inl rfl, by decide⟩

/-- RegisterStoreWritesTheRun, RegisterLoadReadsTheRun: the longest run at the last place, and one that wraps. -/
theorem witness_run : (Accessible ((freshWith .fault .fault).setI 0xFF0) ((15 : Reg).val + 1) ∧
      IndexCanAdd ((freshWith .fault .fault).setI 0xFF0) 1) ∧
    (Accessible ((freshWith .wrap12 .fault).setI 0xFFFE) ((15 : Reg).val + 1) ∧
      IndexCanAdd ((freshWith .wrap12 .fault).setI 0xFFFE) 1) ∧
    ∀ k, k ≤ (15 : Reg).val → cellOf ((fresh.setI 0xFF0).dataAddr k) ≠ cellOf 0xFEF :=
  ⟨⟨.inr (.inr (by decide)), .inr (by decide)⟩, ⟨.inl rfl, .inr (by decide)⟩, by decide⟩

/-- LoadAfterStoreGivesTheRegistersBack. -/
theorem witness_load_after_store : ∃ t u v, exec (.storeRegs 1) (withRegs (fresh.setI 0x400) [(0, 0xAA), (1, 0xBB)]) = .next t ∧
    u.mem = t.mem ∧ u.params = t.params ∧ u.i = (fresh.setI 0x400).i ∧ u.reg 0 = 0 ∧ exec (.loadRegs 1) u = .next v :=
  ⟨_, (fresh.setI 0x400).setMem ((withRegs (fresh.setI 0x400) [(0, 0xAA), (1, 0xBB)]).writeBytes 0x400 [0xAA, 0xBB]).mem, _,
    rfl, rfl, rfl, rfl, rfl, rfl⟩

/-- Program P5 before its fourth tick. -/
def beforeStore : State := (withRegs ((fresh.setPc 0x206).setI 0x208) [(0, 0x12), (1, 0x08)]).withFetchWord 16 0xF155

/-- StoredWordIsFetchedNext: the fourth tick of program P5. -/
theorem witness_stored_word : decodeWord beforeStore.fetchWord = some (.storeRegs 1) ∧ 1 ≤ (1 : Reg).val ∧
    ∃ t, step beforeStore = .next t ∧ t.pc = beforeStore.i := ⟨by decide, by decide, _, rfl, by decide⟩

/-- SpriteLineGeometry: the first and the last column. -/
theorem witness_columns : (0 : Nat) < 64 ∧ (63 : Nat) < 64 := by decide

/-- A sprite of one row from the last byte of memory at the last column and the last row. -/
def atCorner : State := withRegs (fresh.setI 0xFFF) [(0, 0xFF), (1, 0xFF)]

/-- DrawXorsTheClippedSprite: one row drawn at the corner, of 15 asked for; and none, where `n` = 0. -/
theorem witness_draw :
    (63 = (atCorner.reg 0).toNat % 64 ∧ 31 = (atCorner.reg 1).toNat % 32 ∧ 1 = min (15 : Nibble).val (32 - 31) ∧
      Accessible atCorner 1 ∧ 1 = 0 + 1) ∧
    0 = min (0 : Nibble).val (32 - 31) ∧ Accessible (atCorner.setI 0x1234) 0 :=
  ⟨⟨by decide, by decide, by decide, .inr (.inr (by decide)), rfl⟩, by decide, .inr (.inl rfl)⟩

/-- DrawingTwiceRestoresTheFramebuffer. -/
theorem witness_draw_twice : ∃ t u v, exec (.drw 0 0 1) fresh = .next t ∧ u.fb = t.fb ∧ u.mem = fresh.mem ∧ u.params = fresh.params ∧
    u.i = fresh.i ∧ u.reg 0 = fresh.reg 0 ∧ exec (.drw 0 0 1) u = .next v :=
  ⟨_, fresh.setFb (fresh.setRow 0 0xF000000000000000).fb, _, rfl, rfl, rfl, rfl, rfl, rfl, rfl⟩

/-- ZeroRandomStateStaysZero. -/
theorem witness_zero_random : (fresh.setRng 0).rng = 0 ∧ ∃ t, exec (.rnd 3 0xFF) (fresh.setRng 0) = .next t := ⟨rfl, _, rfl⟩

/-- KeyWaitReadsTheLowestKey: no key, the first key alone, the last key alone. -/
theorem witness_keys : fresh.keys = 0 ∧ ((0 : Nat) < 16 ∧ (fresh.setKeys 1).keys.getLsbD 0 = true) ∧
    15 < 16 ∧ (fresh.setKeys 0x8000).keys.getLsbD 15 = true ∧ ∀ j, j < 15 → (fresh.setKeys 0x8000).keys.getLsbD j = false := by
  decide

/-- The timer program of 2.6, from its FX15 with three words on, the FX07 last. -/
def timerProgram : State := (withRegs fresh [(0, 0x0A)]).writeBytes 0x200 [0xF0, 0x15, 0x71, 0x00, 0xF2, 0x07]

/-- SkipsFollowTheirComparisons, the illegal words: the least and the greatest low nibble but 0. -/
theorem witness_nibble : (1 : BitVec 4) ≠ 0 ∧ (15 : BitVec 4) ≠ 0 := by decide

/-- DelayTimerMeasuresTicks, with one tick between the two. -/
theorem witness_delay : ∃ t u v, decodeWord timerProgram.fetchWord = some (.ldDtVx 0) ∧ step timerProgram = .next t ∧
    TicksNotSettingDelay 1 t u ∧ decodeWord u.fetchWord = some (.ldVxDt 2) ∧ step u = .next v := by
  refine ⟨_, _, _, by decide, rfl, .succ (fun x h => ?_) rfl (.zero _), by decide, rfl⟩
  have hd : decodeWord (timerProgram.setPc 0x202).fetchWord = some (.addImm 1 0) := by decide
  exact absurd (hd.symm.trans h) (by simp)

/-- SelfJumpIsAnEnd: the program 12 00. -/
theorem witness_self_jump : (fresh.withFetchWord 16 0x1200).AtSelfJump := ⟨0x200, by decide, by decide, by decide⟩

/-- LoadProgramCopiesTheBytes: the longest program and the empty one; its first and last byte, and the addresses below it.
TooLongProgramIsRefused: the first that is too long. -/
theorem witness_programs : (List.replicate 3584 (0x60 : Byte)).length ≤ 3584 ∧ ([] : List Byte).length ≤ 3584 ∧
    0 < (List.replicate 3584 (0x60 : Byte)).length ∧ 3583 < (List.replicate 3584 (0x60 : Byte)).length ∧
    (0x1FF < 0x200 ∧ 0x1FF < 0x1000) ∧ (0x200 + ([] : List Byte).length ≤ 0xFFF ∧ 0xFFF < 0x1000) ∧
    3584 < (List.replicate 3585 (0x60 : Byte)).length := by
  simp only [List.length_replicate, List.length_nil]
  decide

/-- KeyPortsChangeOneBit: the first and the last bit. -/
theorem witness_bits : (0 : Nat) < 16 ∧ (15 : Nat) < 16 := by decide

/-- PlacedWordIsTheNextInstruction: the last address that may be fetched, and the bytes next to the two that are stored, on
either side (above it memory ends, so the first byte of all). -/
theorem witness_placed : Fetchable (fresh.setPc 0xFFE) ∧
    (cellOf 0xFFD ≠ cellOf 0xFFE ∧ cellOf 0xFFD ≠ cellOf 0xFFF) ∧ cellOf 0 ≠ cellOf 0xFFE ∧ cellOf 0 ≠ cellOf 0xFFF :=
  ⟨.inr (by decide), by decide⟩

end Sys2Proof.Tests
end

section
/-!
PROOFS. The family 10_state.md. The frame of an instruction is built from one rule per update of the state
(`Frame`), and the invariant, the key mask and the frame statement are read off it; the sound timer is a relation between
two answers that every shared operation respects (`AgreeButSt`).
-/

namespace Sys2Proof.Machine

open Sys2Proof Sys2Proof.Claims

/-! ### Frames: one rule per update of the state -/

/-- What lies between two states when only the registers `regs` and the items `items` may have been written. Of memory it says
more than `Same`: where memory may not be written, the listing itself is the same. -/
structure Frame (regs : List Reg) (items : List Item) (s t : State) : Prop where
  regsSame  : RegsSameBut regs s t
  itemsSame : SameBut items s t
  memSame   : .mem ∉ items → t.mem = s.mem

theorem same_trans {s t u : State} {it : Item} (h : Same s t it) (h' : Same t u it) : Same s u it := by
  cases it with
  | mem => exact fun a => (h' a).trans (h a)
  | i | stack | dt | st | keys | rng | fb | params => exact Eq.trans h' h

/-- To show every item but those of a list the same, one that is in the list may be left out. -/
theorem sameBut_of_ne {items : List Item} {s t : State} {it : Item} (hit : it ∈ items) (h : ∀ j ≠ it, Same s t j) :
    SameBut items s t := fun j hj => h j fun e => hj (e ▸ hit)

namespace Frame

variable {regs : List Reg} {items : List Item} {s t u : State}

theorem refl (s : State) : Frame regs items s s :=
  ⟨fun _ _ => rfl, fun it _ => by cases it <;> simp [Same], fun _ => rfl⟩

theorem trans (h : Frame regs items s t) (h' : Frame regs items t u) : Frame regs items s u :=
  ⟨fun r hr => (h'.regsSame r hr).trans (h.regsSame r hr),
    fun it hit => same_trans (h.itemsSame it hit) (h'.itemsSame it hit), fun hm => (h'.memSame hm).trans (h.memSame hm)⟩

theorem setPc (h : Frame regs items s t) (a : Word) : Frame regs items s (t.setPc a) :=
  h.trans ⟨fun _ _ => rfl, fun it _ => by cases it <;> simp [Same], fun _ => rfl⟩

theorem next (h : Frame regs items s t) : Frame regs items s t.next := h.setPc _

theorem skip (h : Frame regs items s t) (c : Bool) : Frame regs items s (t.skip c) := h.setPc _

theorem setV (h : Frame regs items s t) {v : Vector Byte 16} (hv : ∀ y ∉ regs, v.get y = t.reg y) :
    Frame regs items s (t.setV v) :=
  h.trans ⟨hv, fun it _ => by cases it <;> simp [Same], fun _ => rfl⟩

theorem setReg (h : Frame regs items s t) {x : Reg} (hx : x ∈ regs) (b : Byte) : Frame regs items s (t.setReg x b) :=
  h.setV fun _ hy => State.reg_setReg_other t b fun e => hy (e ▸ hx)

theorem setRegFlag (h : Frame regs items s t) {x : Reg} (hx : x ∈ regs) (hf : vf ∈ regs) (b f : Byte) :
    Frame regs items s (t.setRegFlag x b f) := (h.setReg hx b).setReg hf f

theorem setMem (h : Frame regs items s t) (hit : .mem ∈ items) (m : Memory) : Frame regs items s (t.setMem m) :=
  h.trans ⟨fun _ _ => rfl, sameBut_of_ne hit fun j hj => by cases j <;> simp_all [Same], fun hm => absurd hit hm⟩

theorem setI (h : Frame regs items s t) (hit : .i ∈ items) (a : Word) : Frame regs items s (t.setI a) :=
  h.trans ⟨fun _ _ => rfl, sameBut_of_ne hit fun j hj => by cases j <;> simp_all [Same], fun _ => rfl⟩

theorem setStack (h : Frame regs items s t) (hit : .stack ∈ items) (l : List Word) : Frame regs items s (t.setStack l) :=
  h.trans ⟨fun _ _ => rfl, sameBut_of_ne hit fun j hj => by cases j <;> simp_all [Same], fun _ => rfl⟩

theorem setDt (h : Frame regs items s t) (hit : .dt ∈ items) (b : Byte) : Frame regs items s (t.setDt b) :=
  h.trans ⟨fun _ _ => rfl, sameBut_of_ne hit fun j hj => by cases j <;> simp_all [Same], fun _ => rfl⟩

theorem setSt (h : Frame regs items s t) (hit : .st ∈ items) (b : Byte) : Frame regs items s (t.setSt b) :=
  h.trans ⟨fun _ _ => rfl, sameBut_of_ne hit fun j hj => by cases j <;> simp_all [Same], fun _ => rfl⟩

theorem setRng (h : Frame regs items s t) (hit : .rng ∈ items) (q : Quad) : Frame regs items s (t.setRng q) :=
  h.trans ⟨fun _ _ => rfl, sameBut_of_ne hit fun j hj => by cases j <;> simp_all [Same], fun _ => rfl⟩

theorem setFb (h : Frame regs items s t) (hit : .fb ∈ items) (f : Vector Quad 32) : Frame regs items s (t.setFb f) :=
  h.trans ⟨fun _ _ => rfl, sameBut_of_ne hit fun j hj => by cases j <;> simp_all [Same], fun _ => rfl⟩

theorem writeBytes (h : Frame regs items s t) (hit : .mem ∈ items) (a : Nat) (bs : List Byte) :
    Frame regs items s (t.writeBytes a bs) := by
  rw [State.writeBytes_eq_setMem]
  exact h.setMem hit _

theorem drawRows (h : Frame regs items s t) (hf : vf ∈ regs) (hit : .fb ∈ items) (cx r : Nat) (bs : List Byte) :
    Frame regs items s (t.drawRows cx r bs) := by
  obtain ⟨f, v, ht, hv⟩ := drawRows_frame t cx r bs
  rw [ht]
  exact (h.setFb hit f).setV fun y hy => hv y fun e => hy (e ▸ hf)

theorem loadRun (h : Frame regs items s t) {x : Reg} (hx : ∀ y ≤ x, y ∈ regs) (a : Nat) :
    Frame regs items s (t.loadRun a x) :=
  h.setV fun y hy => (reg_loadRun t a x y).trans (if_neg fun hle => hy (hx y hle))

end Frame

/-! ### The frame of every instruction -/

/-- An instruction writes the registers and the items the spec's tables name, and nothing else. -/
theorem exec_frame {i : Instr} {s t : State} (h : exec i s = .next t) : Frame (writtenRegs i) (writtenItems i) s t := by
  have same {regs items} : Frame regs items s s := .refl s
  cases i with
  | cls => cases h; exact (same.setFb (.head _) _).next
  | ret =>
    obtain ⟨l, a, -, rfl⟩ := exec_ret_next h
    exact (same.setStack (.head _) l).setPc a
  | call nnn =>
    obtain ⟨-, rfl⟩ := exec_call_next h
    exact (same.setStack (.head _) _).setPc _
  | jp _ | jpV0 _ => cases h; exact same.setPc _
  | seImm _ _ | sneImm _ _ | seReg _ _ | sneReg _ _ | skp _ | sknp _ => cases h; exact same.skip _
  | ldImm _ _ | addImm _ _ | ldReg _ _ | ldVxDt _ => cases h; exact (same.setReg (.head _) _).next
  | orReg _ _ | andReg _ _ | xorReg _ _ | addReg _ _ | subReg _ _ | shrReg _ _ | subnReg _ _ | shlReg _ _ =>
    cases h
    exact (same.setRegFlag (.head _) (.tail _ (.head _)) _ _).next
  | ldI _ | ldGlyph _ => cases h; exact (same.setI (.head _) _).next
  | rnd _ _ => cases h; exact ((same.setRng (.head _) _).setReg (.head _) _).next
  | ldDtVx _ => cases h; exact (same.setDt (.head _) _).next
  | ldStVx _ => cases h; exact (same.setSt (.head _) _).next
  | addI x =>
    rw [exec_addI_next h]
    exact (same.setI (.head _) _).next
  | drw x y n =>
    obtain ⟨-, rfl⟩ := exec_drw_next h
    exact (same.drawRows (.head _) (.head _) _ _ _).next
  | ldVxKey x =>
    obtain ⟨-, rfl⟩ | ⟨k, -, rfl⟩ := exec_ldVxKey_next h
    · exact same
    · exact (same.setReg (.head _) _).next
  | ldBcd x =>
    obtain ⟨-, rfl⟩ := exec_ldBcd_next h
    exact (same.writeBytes (.head _) _ _).next
  | storeRegs x =>
    obtain ⟨-, rfl⟩ := exec_storeRegs_next h
    exact ((same.writeBytes (.head _) _ _).setI (.tail _ (.head _)) _).next
  | loadRegs x =>
    obtain ⟨-, rfl⟩ := exec_loadRegs_next h
    have hrun : ∀ y ≤ x, y ∈ writtenRegs (.loadRegs x) := fun y hy => by simpa [writtenRegs] using hy
    exact ((same.loadRun hrun _).setI (.head _) _).next

/-- No instruction writes the parameters. -/
theorem params_notMem_writtenItems (i : Instr) : .params ∉ writtenItems i := by cases i <;> simp [writtenItems]

/-- No instruction writes the key mask (10_state.md R31). -/
theorem keys_notMem_writtenItems (i : Instr) : .keys ∉ writtenItems i := by cases i <;> simp [writtenItems]

/-- The instructions that write memory (10_state.md R24). -/
theorem mem_mem_writtenItems {i : Instr} (h : .mem ∈ writtenItems i) : ∃ x, i = .ldBcd x ∨ i = .storeRegs x := by
  cases i <;> simp [writtenItems] at h ⊢

/-- The instructions that write the call stack (10_state.md R27). -/
theorem stack_mem_writtenItems {i : Instr} (h : .stack ∈ writtenItems i) : i = .ret ∨ ∃ nnn, i = .call nnn := by
  cases i <;> simp [writtenItems] at h ⊢

theorem exec_params {i : Instr} {s t : State} (h : exec i s = .next t) : t.params = s.params :=
  (exec_frame h).itemsSame .params (params_notMem_writtenItems i)

theorem exec_keys {i : Instr} {s t : State} (h : exec i s = .next t) : t.keys = s.keys :=
  (exec_frame h).itemsSame .keys (keys_notMem_writtenItems i)

/-- Settles O19: the frame built up from the updates each instruction makes. -/
theorem instructionsChangeOnlyWhatTheyWrite : Obligations.InstructionsChangeOnlyWhatTheyWrite :=
  fun _ _ _ h => ⟨(exec_frame h).regsSame, (exec_frame h).itemsSame⟩

/-! ### The invariant -/

/-- An instruction keeps memory canonical: only FX33 and FX55 write it, by runs of stores. -/
theorem exec_keeps_mem_wf {i : Instr} {s t : State} (h : exec i s = .next t) (hwf : Memory.wf s.params s.mem = true) :
    Memory.wf t.params t.mem = true := by
  by_cases hm : Item.mem ∈ writtenItems i
  · obtain ⟨x, rfl | rfl⟩ := mem_mem_writtenItems hm
    · obtain ⟨-, rfl⟩ := exec_ldBcd_next h
      exact State.writeBytes_wf s _ _ hwf
    · obtain ⟨-, rfl⟩ := exec_storeRegs_next h
      exact State.writeBytes_wf s _ _ hwf
  · rwa [exec_params h, (exec_frame h).memSame hm]

/-- An instruction keeps the bound on the stack: 00EE shortens it, and 2NNN completes on a stack that is not full only. -/
theorem exec_keeps_stack_bound {i : Instr} {s t : State} (h : exec i s = .next t) (hsp : s.sp ≤ s.params.stackDepth) :
    t.sp ≤ t.params.stackDepth := by
  unfold State.sp at *
  by_cases hm : Item.stack ∈ writtenItems i
  · obtain rfl | ⟨nnn, rfl⟩ := stack_mem_writtenItems hm
    · obtain ⟨l, a, hs, rfl⟩ := exec_ret_next h
      simp only [hs, List.length_append, List.length_singleton, State.setPc_stack, State.setPc_params, State.setStack_stack,
        State.setStack_params] at hsp ⊢
      omega
    · obtain ⟨hfull, rfl⟩ := exec_call_next h
      simp only [State.sp, List.length_append, List.length_singleton, State.setPc_stack, State.setPc_params,
        State.setStack_stack, State.setStack_params] at hfull ⊢
      omega
  · have hstack : t.stack = s.stack := (exec_frame h).itemsSame .stack hm
    rwa [exec_params h, hstack]

theorem exec_keeps_inv {i : Instr} {s t : State} (h : exec i s = .next t) (hs : s.Inv) : t.Inv :=
  ⟨exec_params h ▸ hs.params, exec_keeps_mem_wf h hs.mem, exec_keeps_stack_bound h hs.stack⟩

theorem State.Inv.countDown {s : State} (h : s.Inv) : s.countDown.Inv := ⟨h.params, h.mem, h.stack⟩

/-- Settles O16: the instruction keeps the invariant, and the count-down touches nothing it speaks of. -/
theorem stepKeepsTheInvariant : Obligations.StepKeepsTheInvariant := by
  intro s t hs h
  obtain ⟨-, i, u, -, hexec, rfl⟩ := (step_eq_next_iff s t).mp h
  exact (exec_keeps_inv hexec hs).countDown

theorem State.initial_inv {p : Params} (seed : Quad) (h : p.wf = true) : (State.initial p seed).Inv :=
  ⟨h, Memory.wf_nil p, Nat.zero_le _⟩

/-- Settles O17: the memory listing and the stack start empty. -/
theorem resetMeetsTheInvariant : Obligations.ResetMeetsTheInvariant :=
  ⟨State.initial_inv defaultSeed (by decide), fun _ seed h => State.initial_inv seed h⟩

/-! ### The key mask -/

/-- Settles O20: a failing tick leaves the state, and neither an instruction nor the count-down writes the mask. -/
theorem noTickChangesTheKeyMask : Obligations.NoTickChangesTheKeyMask := by
  intro s
  obtain h | h := tick_state s
  · obtain ⟨-, i, u, -, hexec, ht⟩ := (step_eq_next_iff _ _).mp h
    rw [ht, State.countDown_keys, exec_keys hexec]
  · rw [h]

/-! ### The flag -/

/-- The flag is written last, so `VF` holds it whatever `x` is (00_scope.md R11). -/
theorem regWithFlag_vf {x : Reg} {b f : Byte} {s t : State} (h : regWithFlag x b f s = .next t) : t.reg vf = f := by
  cases h
  rw [State.reg_next, State.reg_setRegFlag, if_pos rfl]

theorem regWithFlag_zero_or_one {x : Reg} {b : Byte} {c : Bool} {s t : State} (h : regWithFlag x b (flag c) s = .next t) :
    t.reg vf = 0 ∨ t.reg vf = 1 := by
  rw [regWithFlag_vf h]
  exact flag_eq_zero_or_one c

/-- After at least one drawn row, `VF` is the last one's collision flag. -/
theorem drawRows_vf_zero_or_one (s : State) (cx r : Nat) {bs : List Byte} (h : bs ≠ []) :
    (s.drawRows cx r bs).reg vf = 0 ∨ (s.drawRows cx r bs).reg vf = 1 := by
  induction bs generalizing s r with
  | nil => exact absurd rfl h
  | cons b bs ih =>
    by_cases hbs : bs = []
    · subst hbs
      show (s.drawRow cx r b).reg vf = 0 ∨ (s.drawRow cx r b).reg vf = 1
      rw [reg_drawRow, if_pos rfl]
      exact flag_eq_zero_or_one _
    · exact ih (s.drawRow cx r b) (r + 1) hbs

/-- Settles O21: each of the eight writes its flag last, and a drawn row writes its collision flag. -/
theorem flagsAreZeroOrOne : Obligations.FlagsAreZeroOrOne := by
  rintro i s t h ⟨x, y, rfl | rfl | rfl | rfl | rfl | rfl | rfl | rfl | ⟨n, rfl, hn⟩⟩
  iterate 3 exact .inl (regWithFlag_vf h)
  iterate 5 exact regWithFlag_zero_or_one h
  obtain ⟨-, rfl⟩ := exec_drw_next h
  refine drawRows_vf_zero_or_one s _ _ fun hnil => hn ?_
  rwa [← List.length_eq_zero_iff, State.readBytes_length] at hnil

/-! ### Canonical memory -/

theorem memWfFrom_cons (p : Params) (lo k : Nat) (b : Byte) (m : Memory) : memWfFrom p lo ((k, b) :: m) = true ↔
    lo ≤ k ∧ k < memSize ∧ b ≠ resetByte p k ∧ memWfFrom p (k + 1) m = true := by
  simp [memWfFrom, and_assoc]

theorem memRead_cons (p : Params) (k a : Nat) (b : Byte) (m : Memory) :
    memRead p ((k, b) :: m) a = if k = a then b else memRead p m a := by
  by_cases h : k = a <;> simp [memRead, memLookup, h]

/-- A canonical listing from `lo` on says nothing of the addresses below. -/
theorem memRead_of_lt {p : Params} {m : Memory} {lo a : Nat} (h : memWfFrom p lo m = true) (ha : a < lo) :
    memRead p m a = resetByte p a := by
  induction m generalizing lo with
  | nil => rfl
  | cons e m ih =>
    obtain ⟨hlo, -, -, hm⟩ := (memWfFrom_cons p lo e.1 e.2 m).mp h
    rw [memRead_cons, if_neg (by omega)]
    exact ih hm (by omega)

/-- The first address of a canonical listing is no lower than a listing that reads alike there begins. -/
theorem le_head_of_memRead_eq {p : Params} {m m' : Memory} {lo lo' k : Nat} {b : Byte}
    (h : memWfFrom p lo ((k, b) :: m) = true) (h' : memWfFrom p lo' m' = true)
    (hread : memRead p ((k, b) :: m) k = memRead p m' k) : lo' ≤ k := by
  by_contra hk
  obtain ⟨-, -, hb, -⟩ := (memWfFrom_cons p lo k b m).mp h
  rw [memRead_cons, if_pos rfl, memRead_of_lt h' (by omega)] at hread
  exact hb hread

/-- A canonical listing that reads as nothing was stored is empty. -/
theorem eq_nil_of_memRead_eq {p : Params} {m : Memory} {lo : Nat} (h : memWfFrom p lo m = true)
    (hread : ∀ a < memSize, memRead p m a = resetByte p a) : m = [] := by
  cases m with
  | nil => rfl
  | cons e m =>
    obtain ⟨-, hk, -, -⟩ := (memWfFrom_cons p lo e.1 e.2 m).mp h
    have := le_head_of_memRead_eq (m' := []) (lo' := e.1 + 1) h rfl (hread e.1 hk)
    omega

/-- Canonical listings that read alike are equal: their first entries have the same address, since each listing begins no
higher than the other, then the same byte, and the rest reads alike again. -/
theorem memWfFrom_ext {p : Params} {m m' : Memory} {lo lo' : Nat} (h : memWfFrom p lo m = true)
    (h' : memWfFrom p lo' m' = true) (hread : ∀ a < memSize, memRead p m a = memRead p m' a) : m = m' := by
  induction m generalizing lo lo' m' with
  | nil => exact (eq_nil_of_memRead_eq h' fun a ha => (hread a ha).symm).symm
  | cons e m ih =>
    cases m' with
    | nil => exact eq_nil_of_memRead_eq h hread
    | cons e' m' =>
      obtain ⟨k, b⟩ := e
      obtain ⟨k', b'⟩ := e'
      obtain ⟨-, hk, hb, hm⟩ := (memWfFrom_cons p lo k b m).mp h
      obtain ⟨-, hk', hb', hm'⟩ := (memWfFrom_cons p lo' k' b' m').mp h'
      have hle : k' ≤ k :=
        le_head_of_memRead_eq h ((memWfFrom_cons p k' k' b' m').mpr ⟨Nat.le_refl k', hk', hb', hm'⟩) (hread k hk)
      have hge : k ≤ k' :=
        le_head_of_memRead_eq h' ((memWfFrom_cons p k k b m).mpr ⟨Nat.le_refl k, hk, hb, hm⟩) (hread k' hk').symm
      obtain rfl : k = k' := Nat.le_antisymm hge hle
      obtain rfl : b = b' := by simpa [memRead_cons] using hread k hk
      have htail : ∀ a < memSize, memRead p m a = memRead p m' a := by
        intro a ha
        by_cases hka : k = a
        · rw [← hka, memRead_of_lt hm (Nat.lt_succ_self k), memRead_of_lt hm' (Nat.lt_succ_self k)]
        · simpa [memRead_cons, hka] using hread a ha
      rw [ih hm hm' htail]

/-- Settles O22, by induction on the two listings. -/
theorem canonicalMemoryIsDetermined : Obligations.CanonicalMemoryIsDetermined :=
  fun _ _ _ h h' hread => memWfFrom_ext h h' hread

/-! ### The sound timer -/

/-- Two answers that are alike but for `ST`: the same fault or refusal, or next states that differ in `ST` alone. -/
inductive AgreeButSt : Result → Result → Prop
  | next (t : State) (c : Byte) : AgreeButSt (.next t) (.next (t.setSt c))
  | fault (e : Fault) : AgreeButSt (.fault e) (.fault e)
  | refused (r : Refusal) : AgreeButSt (.refused r) (.refused r)

theorem AgreeButSt.guardAccess {r r' : Result} (h : AgreeButSt r r') (p : Params) (base len : Nat) :
    AgreeButSt (guardAccess p base len r) (guardAccess p base len r') := by
  cases ha : accessFault p base len with
  | none => rwa [guardAccess_of_none r ha, guardAccess_of_none r' ha]
  | some a =>
    rw [guardAccess_of_some r ha, guardAccess_of_some r' ha]
    exact .fault _

theorem AgreeButSt.finishTick {r r' : Result} (h : AgreeButSt r r') : AgreeButSt (finishTick r) (finishTick r') := by
  cases h with
  | next t c => exact .next t.countDown (decTimer c)
  | fault e => exact .fault e
  | refused e => exact .refused e

theorem agreeButSt_andThen (r : Except Fault State) (b : Byte) {k : State → Result}
    (hk : ∀ u, AgreeButSt (k u) (k (u.setSt b))) : AgreeButSt (andThen r k) (andThen (r.map (·.setSt b)) k) := by
  cases r with
  | ok u => exact hk u
  | error e => exact .fault e

theorem agreeButSt_popThen (s : State) (b : Byte) {k : Word → State → Result}
    (hk : ∀ a u, AgreeButSt (k a u) (k a (u.setSt b))) : AgreeButSt (popThen s k) (popThen (s.setSt b) k) := by
  obtain hs | ⟨l, a, hs⟩ := List.eq_nil_or_concat' s.stack
  · rw [popThen_empty k hs, popThen_empty k (s := s.setSt b) hs]
    exact .fault _
  · rw [popThen_concat k hs, popThen_concat k (s := s.setSt b) hs]
    exact hk a (s.setStack l)

theorem addToI_setSt (s : State) (b : Byte) (k : Nat) : (s.setSt b).addToI k = (s.addToI k).map (·.setSt b) := by
  unfold State.addToI
  simp only [State.setSt_params, State.setSt_i]
  cases s.params.iOverflow with
  | wrap16 => rfl
  | fault => by_cases h : s.i.toNat + k < 2 ^ 16 <;> simp only [h, if_true, if_false] <;> rfl

theorem push_setSt (s : State) (b : Byte) (a : Word) : (s.setSt b).push a = (s.push a).map (·.setSt b) := by
  unfold State.push
  by_cases h : s.sp = s.params.stackDepth <;> simp only [State.sp_setSt, State.setSt_params, h, if_true, if_false] <;> rfl

theorem writeBytes_setSt (s : State) (b : Byte) (a : Nat) (bs : List Byte) :
    (s.setSt b).writeBytes a bs = (s.writeBytes a bs).setSt b := by
  induction bs generalizing s a with
  | nil => rfl
  | cons c bs ih => exact ih (s.writeByte a c) (a + 1)

theorem drawRows_setSt (s : State) (b : Byte) (cx r : Nat) (bs : List Byte) :
    (s.setSt b).drawRows cx r bs = (s.drawRows cx r bs).setSt b := by
  induction bs generalizing s r with
  | nil => rfl
  | cons c bs ih => exact ih (s.drawRow cx r c) (r + 1)

/-- No instruction reads `ST`. -/
theorem exec_setSt_agree (i : Instr) (s : State) (b : Byte) : AgreeButSt (exec i s) (exec i (s.setSt b)) := by
  cases i with
  | ldStVx x => exact .next _ (s.reg x)
  | ret =>
    rw [exec_ret, exec_ret]
    exact agreeButSt_popThen s b fun a u => .next (u.setPc a) b
  | call nnn =>
    rw [exec_call, exec_call, push_setSt]
    exact agreeButSt_andThen _ b fun _ => .next _ b
  | addI x =>
    rw [exec_addI, exec_addI, addToI_setSt]
    exact agreeButSt_andThen _ b fun _ => .next _ b
  | drw x y n =>
    rw [exec_drw, exec_drw, drawRows_setSt]
    exact (AgreeButSt.next _ b).guardAccess _ _ _
  | ldBcd x =>
    rw [exec_ldBcd, exec_ldBcd, writeBytes_setSt]
    exact (AgreeButSt.next _ b).guardAccess _ _ _
  | storeRegs x =>
    rw [exec_storeRegs, exec_storeRegs, writeBytes_setSt, addToI_setSt]
    exact (agreeButSt_andThen _ b fun _ => .next _ b).guardAccess _ _ _
  | loadRegs x =>
    have hload : (s.setSt b).loadRun ((s.setSt b).dataAddr 0) x = (s.loadRun (s.dataAddr 0) x).setSt b := rfl
    rw [exec_loadRegs, exec_loadRegs, hload, addToI_setSt]
    exact (agreeButSt_andThen _ b fun _ => .next _ b).guardAccess _ _ _
  | ldVxKey x =>
    have hkey : (s.setSt b).lowestKey = s.lowestKey := rfl
    rw [exec_ldVxKey, exec_ldVxKey, hkey]
    cases s.lowestKey with
    | none => exact .next _ b
    | some k => exact .next _ b
  | cls | jp _ | jpV0 _ | seImm _ _ | sneImm _ _ | seReg _ _ | sneReg _ _ | skp _ | sknp _ => exact .next _ b
  | ldImm _ _ | addImm _ _ | ldReg _ _ | ldVxDt _ | ldDtVx _ | ldI _ | ldGlyph _ | rnd _ _ => exact .next _ b
  | orReg _ _ | andReg _ _ | xorReg _ _ | addReg _ _ | subReg _ _ | shrReg _ _ | subnReg _ _ | shlReg _ _ =>
    exact .next _ b

theorem step_setSt_agree (s : State) (b : Byte) : AgreeButSt (step s) (step (s.setSt b)) := by
  have hfetch : (s.setSt b).fetchWord = s.fetchWord := rfl
  unfold step
  rw [hfetch]
  refine AgreeButSt.guardAccess ?_ _ _ _
  cases decodeWord s.fetchWord with
  | none => exact .fault _
  | some i => exact (exec_setSt_agree i s b).finishTick

/-- Settles O51: the two steps agree but for `ST`, and a failing tick hands back the two states. -/
theorem soundTimerIsNeverRead : Obligations.SoundTimerIsNeverRead := by
  intro s b
  have h := step_setSt_agree s b
  unfold tick
  generalize step s = r at h ⊢
  generalize step (s.setSt b) = r' at h ⊢
  cases h with
  | next t c => exact ⟨rfl, c, rfl⟩
  | fault e => exact ⟨rfl, b, rfl⟩
  | refused e => exact ⟨rfl, b, rfl⟩

/-! ### The values after reset -/

/-- What admissible parameters say of the glyph area (10_state.md R25). -/
theorem glyphRom_of_wf {p : Params} (h : p.wf = true) : p.glyphRom.length = glyphBytes ∧ p.glyphRom.take 5 = digitZero := by
  simp only [Params.wf, Bool.and_eq_true, decide_eq_true_eq] at h
  obtain ⟨⟨⟨⟨⟨-, hlen⟩, hzero⟩, -⟩, -⟩, -⟩ := h
  exact ⟨hlen, hzero⟩

/-- Below address 80 the bytes after reset are those of the glyph area. -/
theorem readByte_initial_glyph {p : Params} (seed : Quad) {a : Nat} (hlen : p.glyphRom.length = glyphBytes)
    (ha : a < glyphBytes) : (State.initial p seed).readByte a = p.glyphRom[a] := by
  show resetByte p (cellOf a) = p.glyphRom[a]
  rw [cellOf_of_lt (Nat.lt_trans ha (by decide)), resetByte, if_pos ha, List.getD_eq_getElem _ _ (hlen ▸ ha)]

/-- From address 80 on they are 0. -/
theorem readByte_initial_zero (p : Params) (seed : Quad) {a : Nat} (ha : glyphBytes ≤ a) (hsize : a < memSize) :
    (State.initial p seed).readByte a = 0 := by
  show resetByte p (cellOf a) = 0
  rw [cellOf_of_lt hsize, resetByte, if_neg (Nat.not_lt.mpr ha)]

/-- The first glyph is digit 0. -/
theorem readBytes_initial_digitZero {p : Params} (seed : Quad) (h : p.wf = true) :
    (State.initial p seed).readBytes 0 5 = digitZero := by
  obtain ⟨hlen, hzero⟩ := glyphRom_of_wf h
  rw [← hzero]
  apply List.ext_getElem
  · simp [hlen, glyphBytes]
  · intro k hk _
    have hlt : k < glyphBytes := Nat.lt_trans (by simpa using hk) (by decide : 5 < glyphBytes)
    rw [State.readBytes_getElem, List.getElem_take, Nat.zero_add, readByte_initial_glyph seed hlen hlt]

theorem reg_initial (p : Params) (seed : Quad) (r : Reg) : (State.initial p seed).reg r = 0 := by
  simp [State.reg, State.initial, Vector.get]

theorem row_initial (p : Params) (seed : Quad) (r : Nat) : (State.initial p seed).row r = 0 :=
  row_clearFb (State.initial p seed) r

/-- Settles O57: registers and rows are replicated zeros, and memory reads as the glyph area and zero above it. -/
theorem initializeGivesTheResetValues : Obligations.InitializeGivesTheResetValues := by
  intro p seed hp s
  obtain ⟨hlen, -⟩ := glyphRom_of_wf hp
  refine ⟨reg_initial p seed, rfl, rfl, rfl, rfl, rfl, rfl, rfl, fun r _ => row_initial p seed r, fun a ha => ?_,
    fun a ha hsize => readByte_initial_zero p seed ha hsize, readBytes_initial_digitZero seed hp⟩
  rw [readByte_initial_glyph seed hlen ha, List.getElem?_eq_getElem]

end Sys2Proof.Machine
end

section
/-!
PROOFS. The family 20_memory.md: a store is what the next read gives, for the byte operations and for the run FX55
stores, and so for the word the next fetch joins from it.
-/

namespace Sys2Proof.Machine

open Sys2Proof Sys2Proof.Claims

/-! ### One byte -/

/-- A store writes memory and no other item. -/
theorem writeByte_frame (s : State) (a : Nat) (b : Byte) : Frame [] [.mem] s (s.writeByte a b) :=
  (Frame.refl s).setMem (.head _) _

/-- Settles O23: inside memory an address is its own cell, so the cells differ where the addresses do. -/
theorem storeThenReadGivesTheByte : Obligations.StoreThenReadGivesTheByte := by
  intro s a b ha
  obtain ⟨hregs, hitems, -⟩ := writeByte_frame s a b
  refine ⟨?_, fun c hc hca => ?_, hregs, hitems, rfl⟩
  · rw [State.readByte_writeByte, if_pos rfl]
  · rw [State.readByte_writeByte, cellOf_of_lt ha, cellOf_of_lt hc, if_neg hca.symm]

/-! ### The run FX55 stores -/

/-- A register run is never so long that it wraps onto itself. -/
theorem regRun_length_le_memSize (s : State) (x : Reg) : (s.regRun x).length ≤ memSize := by
  rw [regRun_length]
  exact Nat.le_trans x.isLt (by decide)

/-- After FX55 each of `V[0]` to `V[x]` is read at its place in the run (42_index_memory.md R155). -/
theorem exec_storeRegs_readByte {s t : State} {x r : Reg} (h : exec (.storeRegs x) s = .next t) (hr : r ≤ x) :
    t.readByte (s.dataAddr r.val) = s.reg r := by
  obtain ⟨-, rfl⟩ := exec_storeRegs_next h
  have hlt : r.val < (s.regRun x).length := by
    rw [regRun_length]
    exact Nat.lt_succ_of_le hr
  calc (s.writeBytes (s.dataAddr 0) (s.regRun x)).readByte (s.dataAddr 0 + r.val)
    _ = (s.regRun x)[r.val] := State.readByte_writeBytes_at s _ _ (regRun_length_le_memSize s x) hlt
    _ = s.reg r := regRun_getElem s x hlt

/-- Settles O40: with `PC` at the old `I`, the fetch reads the places of `V[0]` and `V[1]`, and the count-down leaves
memory alone. -/
theorem storedWordIsFetchedNext : Obligations.StoredWordIsFetchedNext := by
  intro x s t hdecode hx hstep hpc
  obtain ⟨-, i, u, hi, hexec, rfl⟩ := (step_eq_next_iff s t).mp hstep
  obtain rfl : i = .storeRegs x := Option.some.inj (hi.symm.trans hdecode)
  have hhigh : u.readByte s.i.toNat = s.reg 0 := exec_storeRegs_readByte hexec (Fin.zero_le x)
  have hlow : u.readByte (s.i.toNat + 1) = s.reg 1 := exec_storeRegs_readByte (r := 1) hexec hx
  rw [State.fetchWord, hpc, State.readByte_countDown, State.readByte_countDown, hhigh, hlow]

end Sys2Proof.Machine
end

section
/-!
PROOFS. The family 30_encoding.md. The encoder's forms and the decoder's fields undo each other, so decode and encode are
inverse; a word that selects a row of the opcode map decodes to an instruction of that row, and this carries the map's
statements. The tick statements rest on what a fetch reads from a word just placed.
-/

namespace Sys2Proof

open Sys2Proof.Machine Sys2Proof.Claims

/-! ### The fields of the encoder's forms (30_encoding.md R71, R72) -/

@[simp] theorem fieldOp_formNNN {op : Nat} (nnn : Addr12) (h : op < 16) : fieldOp (formNNN op nnn) = op := by
  have := nnn.isLt
  rw [fieldOp_eq, formNNN_toNat nnn h]
  omega

@[simp] theorem fieldNNN_formNNN {op : Nat} (nnn : Addr12) (h : op < 16) : fieldNNN (formNNN op nnn) = nnn := by
  apply BitVec.eq_of_toNat_eq
  have := nnn.isLt
  rw [fieldNNN_toNat, formNNN_toNat nnn h]
  omega

@[simp] theorem fieldOp_formXKK {op : Nat} (x : Reg) (kk : Byte) (h : op < 16) : fieldOp (formXKK op x kk) = op := by
  have := x.isLt
  have := kk.isLt
  rw [fieldOp_eq, formXKK_toNat x kk h]
  omega

@[simp] theorem fieldX_formXKK {op : Nat} (x : Reg) (kk : Byte) (h : op < 16) : fieldX (formXKK op x kk) = x := by
  apply Fin.ext
  have := x.isLt
  have := kk.isLt
  rw [fieldX_val, formXKK_toNat x kk h]
  omega

@[simp] theorem fieldKK_formXKK {op : Nat} (x : Reg) (kk : Byte) (h : op < 16) : fieldKK (formXKK op x kk) = kk := by
  apply BitVec.eq_of_toNat_eq
  have := kk.isLt
  rw [fieldKK_toNat, formXKK_toNat x kk h]
  omega

@[simp] theorem fieldOp_formXYN {op n : Nat} (x y : Reg) (h : op < 16) (hn : n < 16) :
    fieldOp (formXYN op x y n) = op := by
  have := x.isLt
  have := y.isLt
  rw [fieldOp_eq, formXYN_toNat x y h hn]
  omega

@[simp] theorem fieldX_formXYN {op n : Nat} (x y : Reg) (h : op < 16) (hn : n < 16) :
    fieldX (formXYN op x y n) = x := by
  apply Fin.ext
  have := x.isLt
  have := y.isLt
  rw [fieldX_val, formXYN_toNat x y h hn]
  omega

@[simp] theorem fieldY_formXYN {op n : Nat} (x y : Reg) (h : op < 16) (hn : n < 16) :
    fieldY (formXYN op x y n) = y := by
  apply Fin.ext
  have := y.isLt
  rw [fieldY_val, formXYN_toNat x y h hn]
  omega

@[simp] theorem fieldN_formXYN {op n : Nat} (x y : Reg) (h : op < 16) (hn : n < 16) :
    fieldN (formXYN op x y n) = ⟨n, hn⟩ := by
  apply Fin.ext
  show (fieldN (formXYN op x y n)).val = n
  rw [fieldN_val, formXYN_toNat x y h hn]
  omega

/-- Format X is format XKK with the function byte in the place of `kk`. -/
theorem formX_eq_formXKK {op fn : Nat} (x : Reg) (h : fn < 256) : formX op x fn = formXKK op x (BitVec.ofNat 8 fn) := by
  rw [formX, formXKK, BitVec.toNat_ofNat, Nat.mod_eq_of_lt h]

/-! ### The forms of a word's own fields (30_encoding.md R76: every bit is fixed or an operand) -/

theorem formNNN_fields {w : Word} {op : Nat} (h : fieldOp w = op) : formNNN op (fieldNNN w) = w := by
  apply BitVec.eq_of_toNat_eq
  have := w.isLt
  rw [fieldOp_eq] at h
  rw [formNNN_toNat _ (by omega), fieldNNN_toNat]
  omega

theorem formXKK_fields {w : Word} {op : Nat} (h : fieldOp w = op) : formXKK op (fieldX w) (fieldKK w) = w := by
  apply BitVec.eq_of_toNat_eq
  have := w.isLt
  rw [fieldOp_eq] at h
  rw [formXKK_toNat _ _ (by omega), fieldX_val, fieldKK_toNat]
  omega

theorem formX_fields {w : Word} {op fn : Nat} (h : fieldOp w = op) (hfn : (fieldKK w).toNat = fn) :
    formX op (fieldX w) fn = w := by
  subst hfn
  exact formXKK_fields h

theorem formXYN_fields {w : Word} {op n : Nat} (h : fieldOp w = op) (hn : (fieldN w).val = n) :
    formXYN op (fieldX w) (fieldY w) n = w := by
  apply BitVec.eq_of_toNat_eq
  have := w.isLt
  rw [fieldOp_eq] at h
  rw [fieldN_val] at hn
  rw [formXYN_toNat _ _ (by omega) (by omega), fieldX_val, fieldY_val]
  omega

/-! ### Decode and encode are inverse -/

theorem decodeWord_encode (i : Instr) : decodeWord (encode i) = some i := by
  cases i with
  | cls | ret => rfl
  | jp _ | call _ | seImm _ _ | sneImm _ _ | seReg _ _ | ldImm _ _ | addImm _ _ | sneReg _ _ | ldI _ | jpV0 _ | rnd _ _
  | drw _ _ _ => simp [encode, decodeWord]
  | ldReg _ _ | orReg _ _ | andReg _ _ | xorReg _ _ | addReg _ _ | subReg _ _ | shrReg _ _ | subnReg _ _ | shlReg _ _ =>
    simp [encode, decodeWord, decodeOp8]
  | skp _ | sknp _ => simp [encode, decodeWord, decodeOpE, formX_eq_formXKK]
  | ldVxDt _ | ldVxKey _ | ldDtVx _ | ldStVx _ | addI _ | ldGlyph _ | ldBcd _ | storeRegs _ | loadRegs _ =>
    simp [encode, decodeWord, decodeOpF, formX_eq_formXKK]

/-- The two bytes of a legal word are read as its instruction, and the bytes after them are left. -/
theorem decode_of_decodeWord {w : Word} {i : Instr} (h : decodeWord w = some i) (rest : List Byte) :
    decode (highByte w :: lowByte w :: rest) = .ok (i, rest) := by
  simp [decode, joinBytes_high_low, h]

/-- Settles O1: each format's fields are the operands it was built from. -/
theorem decodeOfEncodeIsTheInstruction : Obligations.DecodeOfEncodeIsTheInstruction :=
  fun i rest => ⟨decodeWord_encode i, decode_of_decodeWord (decodeWord_encode i) rest⟩

theorem encode_of_decodeOp0 {w : Word} {i : Instr} (h : decodeOp0 w = some i) : encode i = w := by
  unfold decodeOp0 at h
  split at h
  · cases h
    exact Eq.symm ‹_›
  · split at h
    · cases h
      exact Eq.symm ‹_›
    · cases h

theorem encode_of_decodeOp8 {w : Word} {i : Instr} (hop : fieldOp w = 0x8) (h : decodeOp8 w = some i) : encode i = w := by
  unfold decodeOp8 at h
  split at h <;> cases h <;> exact formXYN_fields hop ‹_›

theorem encode_of_decodeOpE {w : Word} {i : Instr} (hop : fieldOp w = 0xE) (h : decodeOpE w = some i) : encode i = w := by
  unfold decodeOpE at h
  split at h <;> cases h <;> exact formX_fields hop ‹_›

theorem encode_of_decodeOpF {w : Word} {i : Instr} (hop : fieldOp w = 0xF) (h : decodeOpF w = some i) : encode i = w := by
  unfold decodeOpF at h
  split at h <;> cases h <;> exact formX_fields hop ‹_›

/-- A legal word is the only word of its instruction. (Branch `h_k` of the decoder's split is the one of `op` = k - 1.) -/
theorem encode_of_decodeWord {w : Word} {i : Instr} (h : decodeWord w = some i) : encode i = w := by
  unfold decodeWord at h
  split at h
  case h_1 => exact encode_of_decodeOp0 h
  case h_9 hop => exact encode_of_decodeOp8 hop h
  case h_15 hop => exact encode_of_decodeOpE hop h
  case h_16 hop => exact encode_of_decodeOpF hop h
  case h_2 hop | h_3 hop | h_11 hop | h_12 hop =>
    cases h
    exact formNNN_fields hop
  case h_4 hop | h_5 hop | h_7 hop | h_8 hop | h_13 hop =>
    cases h
    exact formXKK_fields hop
  case h_6 hop | h_10 hop =>
    split at h <;> cases h
    exact formXYN_fields hop ‹_›
  case h_14 hop =>
    cases h
    exact formXYN_fields hop rfl
  case h_17 => cases h

/-- The low nibble of a word with function nibble 0 is 0. -/
theorem lowNibble_eq_zero {w : Word} (h : (fieldN w).val = 0) : w.extractLsb' 0 4 = 0 := BitVec.eq_of_toNat_eq h

/-- Settles O2: 5XY0 and 9XY0 are encoded with the function nibble 0, and 00E0 and 00EE are one word each. -/
theorem encodeOfDecodeIsTheWord : Obligations.EncodeOfDecodeIsTheWord := by
  refine ⟨fun w i h => encode_of_decodeWord h, fun w x y h => ?_, fun w h => ?_⟩
  · rcases h with h | h <;>
    · rw [← encode_of_decodeWord h]
      exact lowNibble_eq_zero (by simp [encode])
  · rcases h with h | h <;>
    · rw [← encode_of_decodeWord h]
      rfl

/-! ### The opcode map (30_encoding.md R74) -/

theorem opcodeRow_selects_encode (i : Instr) : (opcodeRow i).selects (encode i) = true := by
  cases i with
  | cls => exact Laws.EncodesInRow.cls
  | ret => exact Laws.EncodesInRow.ret
  | jp nnn => exact Laws.EncodesInRow.jp nnn
  | call nnn => exact Laws.EncodesInRow.call nnn
  | seImm x kk => exact Laws.EncodesInRow.seImm x kk
  | sneImm x kk => exact Laws.EncodesInRow.sneImm x kk
  | seReg x y => exact Laws.EncodesInRow.seReg x y
  | ldImm x kk => exact Laws.EncodesInRow.ldImm x kk
  | addImm x kk => exact Laws.EncodesInRow.addImm x kk
  | ldReg x y => exact Laws.EncodesInRow.ldReg x y
  | orReg x y => exact Laws.EncodesInRow.orReg x y
  | andReg x y => exact Laws.EncodesInRow.andReg x y
  | xorReg x y => exact Laws.EncodesInRow.xorReg x y
  | addReg x y => exact Laws.EncodesInRow.addReg x y
  | subReg x y => exact Laws.EncodesInRow.subReg x y
  | shrReg x y => exact Laws.EncodesInRow.shrReg x y
  | subnReg x y => exact Laws.EncodesInRow.subnReg x y
  | shlReg x y => exact Laws.EncodesInRow.shlReg x y
  | sneReg x y => exact Laws.EncodesInRow.sneReg x y
  | ldI nnn => exact Laws.EncodesInRow.ldI nnn
  | jpV0 nnn => exact Laws.EncodesInRow.jpV0 nnn
  | rnd x kk => exact Laws.EncodesInRow.rnd x kk
  | drw x y n => exact Laws.EncodesInRow.drw x y n
  | skp x => exact Laws.EncodesInRow.skp x
  | sknp x => exact Laws.EncodesInRow.sknp x
  | ldVxDt x => exact Laws.EncodesInRow.ldVxDt x
  | ldVxKey x => exact Laws.EncodesInRow.ldVxKey x
  | ldDtVx x => exact Laws.EncodesInRow.ldDtVx x
  | ldStVx x => exact Laws.EncodesInRow.ldStVx x
  | addI x => exact Laws.EncodesInRow.addI x
  | ldGlyph x => exact Laws.EncodesInRow.ldGlyph x
  | ldBcd x => exact Laws.EncodesInRow.ldBcd x
  | storeRegs x => exact Laws.EncodesInRow.storeRegs x
  | loadRegs x => exact Laws.EncodesInRow.loadRegs x

theorem opcodeRow_mem_opcodeTable (i : Instr) : opcodeRow i ∈ opcodeTable := by
  cases i <;> simp [opcodeRow, opcodeTable]

theorem exists_opcodeRow_eq {r : OpcodeRow} (h : r ∈ opcodeTable) : ∃ i, opcodeRow i = r := by
  simp only [opcodeTable, ← List.map_append, List.mem_map] at h
  obtain ⟨i, -, rfl⟩ := h
  exact ⟨i, rfl⟩

/-- The mask 0xFFFF keeps every bit: 00E0 and 00EE are one word each. -/
theorem eq_of_selects {w p : Word} (h : OpcodeRow.selects ⟨0xFFFF, p⟩ w = true) : w = p :=
  BitVec.and_allOnes.symm.trans (of_decide_eq_true h)

theorem fieldOp_of_selects {w p : Word} (h : OpcodeRow.selects ⟨0xF000, p⟩ w = true) : fieldOp w = p.toNat / 0x1000 := by
  rw [selects_op, decide_eq_true_eq] at h
  omega

theorem fields_of_selects_opN {w p : Word} (h : OpcodeRow.selects ⟨0xF00F, p⟩ w = true) :
    fieldOp w = p.toNat / 0x1000 ∧ (fieldN w).val = p.toNat % 0x10 := by
  have := (fieldN w).isLt
  rw [selects_opN, decide_eq_true_eq] at h
  omega

theorem fields_of_selects_opKK {w p : Word} (h : OpcodeRow.selects ⟨0xF0FF, p⟩ w = true) :
    fieldOp w = p.toNat / 0x1000 ∧ (fieldKK w).toNat = p.toNat % 0x100 := by
  have := (fieldKK w).isLt
  rw [selects_opKK, decide_eq_true_eq] at h
  omega

/-- A word that selects a row decodes to an instruction of that row: the row's fixed bits are all the decoder asks for. -/
theorem decodeWord_of_selects {w : Word} (i : Instr) (h : (opcodeRow i).selects w = true) :
    ∃ j, decodeWord w = some j ∧ opcodeRow j = opcodeRow i := by
  cases i with
  | cls | ret =>
    rw [eq_of_selects h]
    exact ⟨_, rfl, rfl⟩
  | jp _ | call _ | seImm _ _ | sneImm _ _ | ldImm _ _ | addImm _ _ | ldI _ | jpV0 _ | rnd _ _ | drw _ _ _ =>
    simp [decodeWord, fieldOp_of_selects h, opcodeRow]
  | seReg _ _ | sneReg _ _ | ldReg _ _ | orReg _ _ | andReg _ _ | xorReg _ _ | addReg _ _ | subReg _ _ | shrReg _ _
  | subnReg _ _ | shlReg _ _ =>
    obtain ⟨hop, hn⟩ := fields_of_selects_opN h
    simp [decodeWord, decodeOp8, hop, hn, opcodeRow]
  | skp _ | sknp _ | ldVxDt _ | ldVxKey _ | ldDtVx _ | ldStVx _ | addI _ | ldGlyph _ | ldBcd _ | storeRegs _ | loadRegs _ =>
    obtain ⟨hop, hkk⟩ := fields_of_selects_opKK h
    simp [decodeWord, decodeOpE, decodeOpF, hop, hkk, opcodeRow]

/-- A decoded word selects its instruction's row, since it is the instruction's encoding. -/
theorem selects_of_decodeWord {w : Word} {i : Instr} (h : decodeWord w = some i) : (opcodeRow i).selects w = true :=
  encode_of_decodeWord h ▸ opcodeRow_selects_encode i

theorem decodeWord_of_selects_mem {w : Word} {r : OpcodeRow} (hr : r ∈ opcodeTable) (h : r.selects w = true) :
    ∃ j, decodeWord w = some j ∧ opcodeRow j = r := by
  obtain ⟨i, rfl⟩ := exists_opcodeRow_eq hr
  exact decodeWord_of_selects i h

/-- A word is illegal exactly when it selects no row (30_encoding.md R75). -/
theorem decodeWord_eq_none_iff (w : Word) : decodeWord w = none ↔ ∀ r ∈ opcodeTable, r.selects w = false := by
  constructor
  · intro hnone r hr
    by_contra hsel
    obtain ⟨j, hj, -⟩ := decodeWord_of_selects_mem hr (Bool.eq_true_of_not_eq_false hsel)
    exact Option.some_ne_none j (hj.symm.trans hnone)
  · intro hno
    cases hd : decodeWord w with
    | none => rfl
    | some i => exact absurd (selects_of_decodeWord hd) (by simp [hno _ (opcodeRow_mem_opcodeTable i)])

/-- Settles O3: a decoded word is its instruction's encoding, which has the row's fixed bits; and a selected row decodes. -/
theorem decodeFollowsTheOpcodeMap : Obligations.DecodeFollowsTheOpcodeMap := fun w =>
  ⟨fun i h => ⟨opcodeRow_mem_opcodeTable i, selects_of_decodeWord h⟩, decodeWord_eq_none_iff w⟩

/-- Settles O4: a word decodes to one instruction, so the rows it selects are that instruction's. -/
theorem opcodeRowsAreDisjoint : Obligations.OpcodeRowsAreDisjoint := by
  refine ⟨rfl, fun w r hr r' hr' h h' => ?_⟩
  obtain ⟨i, hi, rfl⟩ := decodeWord_of_selects_mem hr h
  obtain ⟨j, hj, rfl⟩ := decodeWord_of_selects_mem hr' h'
  rw [Option.some.inj (hi.symm.trans hj)]

/-- Settles O5: the decoder run on the ten words. -/
theorem writtenOutWordsDecode : Obligations.WrittenOutWordsDecode := by
  unfold Obligations.WrittenOutWordsDecode
  decide

end Sys2Proof

namespace Sys2Proof.Machine

open Sys2Proof Sys2Proof.Claims

/-! ### The tick (30_encoding.md R77) -/

theorem fetchable_iff (s : State) : Fetchable s ↔ accessFault s.params s.pc.toNat 2 = none := by
  rw [accessFault_eq_none_iff, Fetchable]
  refine or_congr_right ?_
  simp only [memSize]
  omega

/-- Settles O6: a fetchable `PC` passes the access check, and the count-down follows by the three answers of `exec`. -/
theorem stepRunsTheDecodedInstruction : Obligations.StepRunsTheDecodedInstruction := by
  intro s i hf hd
  rw [step_of_decode ((fetchable_iff s).mp hf) hd]
  cases exec i s <;> rfl

/-- A word stored big-endian at `PC` is the word fetched (20_memory.md R54). -/
theorem fetchWord_writeBytes (s : State) (w : Word) :
    (s.writeBytes s.pc.toNat [highByte w, lowByte w]).fetchWord = w := by
  have hlen : [highByte w, lowByte w].length ≤ memSize := show 2 ≤ memSize by decide
  have hhigh : (s.writeBytes s.pc.toNat [highByte w, lowByte w]).readByte s.pc.toNat = highByte w :=
    s.readByte_writeBytes_at _ _ hlen (k := 0) (by simp)
  have hlow : (s.writeBytes s.pc.toNat [highByte w, lowByte w]).readByte (s.pc.toNat + 1) = lowByte w :=
    s.readByte_writeBytes_at _ _ hlen (k := 1) (by simp)
  rw [State.fetchWord, State.writeBytes_pc, hhigh, hlow, joinBytes_high_low]

/-- What `withFetchWord` can do: it stores the word at a place that can be fetched, which is `PC` where `PC` can be. -/
theorem withFetchWord_eq (s : State) (w : Word) : ∃ pc : Word,
    s.withFetchWord 16 w.toNat = (s.setPc pc).writeBytes pc.toNat [highByte w, lowByte w] ∧
      Fetchable (s.setPc pc) ∧ (Fetchable s → pc = s.pc) := by
  have hw : BitVec.ofNat 16 (w.toNat % 2 ^ 16) = w := by
    rw [Nat.mod_eq_of_lt w.isLt, BitVec.ofNat_toNat, BitVec.setWidth_eq]
  cases ha : accessFault s.params s.pc.toNat 2 with
  | none =>
    refine ⟨s.pc, ?_, (fetchable_iff s).mpr ha, fun _ => rfl⟩
    simp only [State.withFetchWord, ha, hw]
    rfl
  | some a =>
    refine ⟨BitVec.ofNat 16 progBase, ?_, .inr (show progBase < 0x0FFF by decide), fun hf => ?_⟩
    · simp only [State.withFetchWord, ha, hw]
      rfl
    · rw [(fetchable_iff s).mp hf] at ha
      cases ha

/-- Settles O59: the stores stay clear of the other cells, and the fetch joins them to the instruction's word. -/
theorem placedWordIsTheNextInstruction : Obligations.PlacedWordIsTheNextInstruction := by
  intro i s t
  obtain ⟨pc, ht, hfetchable, hpc⟩ := withFetchWord_eq s (encode i)
  replace ht : t = (s.setPc pc).writeBytes pc.toNat [highByte (encode i), lowByte (encode i)] := ht
  have htpc : t.pc = pc := by simp [ht]
  have hword : t.fetchWord = encode i := ht ▸ fetchWord_writeBytes (s.setPc pc) (encode i)
  have haccess : accessFault t.params t.pc.toNat 2 = none := by simpa [ht] using (fetchable_iff _).mp hfetchable
  obtain ⟨hregs, hitems, -⟩ : Frame [] [.mem] s t := ht ▸ ((Frame.refl s).setPc pc).writeBytes (.head _) _ _
  refine ⟨step_of_decode haccess (hword ▸ decodeWord_encode i), hregs, hitems, fun a hhigh hlow => ?_,
    fun hf => htpc.trans (hpc hf)⟩
  rw [htpc] at hhigh hlow
  rw [ht, State.readByte_writeBytes_other, State.readByte_setPc]
  intro k (hk : k < 2)
  interval_cases k
  · exact hhigh.symm
  · exact hlow.symm

end Sys2Proof.Machine
end

section
/-!
PROOFS. The family 40_flow.md. A word written as its nibbles is the encoder's form of it, so the encodings are read off
`decodeWord_encode`; a call and a return are their stack operation and a new `PC`; the four skips share one lemma.
-/

namespace Sys2Proof

open Sys2Proof.Machine Sys2Proof.Claims

/-! ### Words written as their nibbles are the encoder's forms (30_encoding.md R71) -/

theorem wordNNN_eq_formNNN (op : BitVec 4) (nnn : Addr12) : wordNNN op nnn = formNNN op.toNat nnn := by
  apply BitVec.eq_of_toNat_eq
  rw [formNNN_toNat nnn op.isLt, wordNNN, toNat_append_word]
  rfl

theorem wordXKK_eq_formXKK (op : BitVec 4) (x : Reg) (kk : Byte) : wordXKK op x kk = formXKK op.toNat x kk := by
  apply BitVec.eq_of_toNat_eq
  rw [formXKK_toNat x kk op.isLt, wordXKK, toNat_append_word, toNat_append_word, BitVec.toNat_ofNat,
    Nat.mod_eq_of_lt x.isLt]
  omega

theorem wordXYN_eq_formXYN (op : BitVec 4) (x y : Reg) (n : BitVec 4) : wordXYN op x y n = formXYN op.toNat x y n.toNat := by
  apply BitVec.eq_of_toNat_eq
  rw [formXYN_toNat x y op.isLt n.isLt, wordXYN, toNat_append_word, toNat_append_word, toNat_append_word,
    BitVec.toNat_ofNat, BitVec.toNat_ofNat, Nat.mod_eq_of_lt x.isLt, Nat.mod_eq_of_lt y.isLt]
  omega

theorem decodeWord_of_eq_encode {w : Word} {i : Instr} (h : w = encode i) : decodeWord w = some i :=
  h ▸ decodeWord_encode i

/-- A word with `op` 0x5 or 0x9 and a function nibble other than 0 is illegal (30_encoding.md R75). -/
theorem decodeWord_eq_none_of_fieldN {w : Word} (hop : fieldOp w = 0x5 ∨ fieldOp w = 0x9) (hn : (fieldN w).val ≠ 0) :
    decodeWord w = none := by
  rcases hop with hop | hop <;> simp only [decodeWord, hop, if_neg hn]

theorem decodeWord_wordXYN_eq_none {op n : BitVec 4} (x y : Reg) (hop : op.toNat = 0x5 ∨ op.toNat = 0x9) (hn : n ≠ 0) :
    decodeWord (wordXYN op x y n) = none := by
  rw [wordXYN_eq_formXYN]
  apply decodeWord_eq_none_of_fieldN
  · rwa [fieldOp_formXYN x y op.isLt n.isLt]
  · rw [fieldN_formXYN x y op.isLt n.isLt]
    exact fun h => hn (BitVec.eq_of_toNat_eq h)

end Sys2Proof

namespace Sys2Proof.Machine

open Sys2Proof Sys2Proof.Claims

/-! ### Targets as numbers -/

theorem zextAddr_toNat (nnn : Addr12) : (zextAddr nnn).toNat = nnn.toNat :=
  BitVec.toNat_setWidth_of_le (by decide)

theorem zext16_toNat (b : Byte) : (zext16 b).toNat = b.toNat := BitVec.toNat_setWidth_of_le (by decide)

/-! ### Call and return, by the state of the stack (10_state.md R28, R29) -/

theorem exec_call_room {s : State} (nnn : Addr12) (h : s.sp ≠ s.params.stackDepth) :
    exec (.call nnn) s = .next ((s.setStack (s.stack ++ [s.pc + 2])).setPc (zextAddr nnn)) := by
  rw [exec_call, push_room _ h, andThen_ok]

theorem exec_call_full {s : State} (nnn : Addr12) (h : s.sp = s.params.stackDepth) :
    exec (.call nnn) s = .fault .stackOverflow := by
  rw [exec_call, push_full _ h, andThen_error]

theorem exec_ret_concat {s : State} {l : List Word} {a : Word} (h : s.stack = l ++ [a]) :
    exec .ret s = .next ((s.setStack l).setPc a) := by
  rw [exec_ret, popThen_concat _ h]

theorem exec_ret_empty {s : State} (h : s.stack = []) : exec .ret s = .fault .poppedEmptyStack := by
  rw [exec_ret, popThen_empty _ h]

/-- An instruction that raises: the tick hands back the raise and the state before it (60_exceptions.md R215). -/
theorem tick_of_exec_fault {s : State} {i : Instr} {e : Fault} (hf : Fetchable s) (hd : decodeWord s.fetchWord = some i)
    (h : exec i s = .fault e) : tick s = (.raised e, s) :=
  tick_of_fault ((step_of_decode ((fetchable_iff s).mp hf) hd).trans ((finishTick_eq_fault_iff _ e).mpr h))

/-- Settles O27: the call completes with `PC + 2` as the newest entry, which the return takes off. -/
theorem callThenReturnComesBack : Obligations.CallThenReturnComesBack := by
  intro nnn s t u hcall hu
  obtain ⟨-, rfl⟩ := exec_call_next hcall
  exact ⟨_, exec_ret_concat hu, rfl, rfl⟩

/-- Settles O25: the two sides of `Push`. -/
theorem callPushesTheReturnAddress : Obligations.CallPushesTheReturnAddress := by
  refine fun nnn s => ⟨fun hroom => ?_, exec_call_full nnn⟩
  obtain ⟨hregs, hitems, -⟩ := exec_frame (exec_call_room nnn hroom)
  exact ⟨_, exec_call_room nnn hroom, zextAddr_toNat nnn, rfl, hregs, hitems⟩

/-- Settles O26: the two sides of `Pop`; a raise leaves the state. -/
theorem returnPopsTheNewestEntry : Obligations.ReturnPopsTheNewestEntry := by
  refine ⟨decodeWord_encode .ret, fun s => ⟨fun l a hs => ?_, fun hs => ?_⟩⟩
  · obtain ⟨hregs, hitems, -⟩ := exec_frame (exec_ret_concat hs)
    exact ⟨_, exec_ret_concat hs, rfl, rfl, hregs, hitems⟩
  · exact ⟨exec_ret_empty hs, fun hf hd => tick_of_exec_fault hf hd (exec_ret_empty hs)⟩

/-! ### Jumps -/

/-- Settles O24: the target is the address itself, widened. -/
theorem jumpSetsThePc : Obligations.JumpSetsThePc := by
  intro nnn s
  obtain ⟨hregs, hitems, -⟩ := (Frame.refl s).setPc (zextAddr nnn)
  exact ⟨decodeWord_of_eq_encode (wordNNN_eq_formNNN 0x1 nnn), _, rfl, zextAddr_toNat nnn, hregs, hitems⟩

/-- A 12-bit address and a byte add up without a carry out of 16 bits, so the sum needs no reduction. -/
theorem zextAddr_add_zext16_toNat (nnn : Addr12) (b : Byte) :
    (zextAddr nnn + zext16 b).toNat = nnn.toNat + b.toNat := by
  have := nnn.isLt
  have := b.isLt
  rw [BitVec.toNat_add, zextAddr_toNat, zext16_toNat, Nat.mod_eq_of_lt (by omega)]

/-- Settles O28: the sum as a word is the sum as a number. -/
theorem jumpWithOffsetAddsRegisterZero : Obligations.JumpWithOffsetAddsRegisterZero := by
  intro nnn s
  obtain ⟨hregs, hitems, -⟩ := (Frame.refl s).setPc (zextAddr nnn + zext16 (s.reg 0))
  exact ⟨_, rfl, zextAddr_add_zext16_toNat nnn (s.reg 0), hregs, hitems⟩

/-! ### Skips -/

/-- What an instruction that ends in `skip` on the condition `c` does: 4 or 2 on `PC`, and nothing else. -/
theorem exec_of_skip {i : Instr} {s : State} {c : Prop} [Decidable c] (h : exec i s = .next (s.skip (decide c))) :
    ∃ t, exec i s = .next t ∧ t.pc = s.pc + (if c then 4 else 2) ∧ RegsSameBut [] s t ∧ SameBut [] s t := by
  obtain ⟨hregs, hitems, -⟩ := (Frame.refl s).skip (decide c)
  refine ⟨_, h, ?_, hregs, hitems⟩
  simp only [State.skip_pc, decide_eq_true_eq]

/-- The same where the skip is on the condition's failing. -/
theorem exec_of_skip_not {i : Instr} {s : State} {c : Prop} [Decidable c] (h : exec i s = .next (s.skip (decide ¬c))) :
    ∃ t, exec i s = .next t ∧ t.pc = s.pc + (if c then 2 else 4) ∧ RegsSameBut [] s t ∧ SameBut [] s t := by
  simpa only [ite_not] using exec_of_skip h

/-- Settles O29: each skip is `skip` on its comparison. -/
theorem skipsFollowTheirComparisons : Obligations.SkipsFollowTheirComparisons := by
  intro x y kk s
  refine ⟨⟨decodeWord_of_eq_encode (wordXKK_eq_formXKK 0x3 x kk), decodeWord_of_eq_encode (wordXKK_eq_formXKK 0x4 x kk),
    decodeWord_of_eq_encode (wordXYN_eq_formXYN 0x5 x y 0), decodeWord_of_eq_encode (wordXYN_eq_formXYN 0x9 x y 0),
    fun n hn => ⟨decodeWord_wordXYN_eq_none x y (.inl rfl) hn, decodeWord_wordXYN_eq_none x y (.inr rfl) hn⟩⟩, ?_⟩
  exact ⟨exec_of_skip rfl, exec_of_skip_not rfl, exec_of_skip rfl, exec_of_skip_not rfl⟩

end Sys2Proof.Machine
end

section
/-!
PROOFS. The family 41_alu.md. Every instruction of it completes: either it writes one register, or a result and then the
flag. One lemma says what each of the two shapes does, and an instruction adds what its value and its flag are as numbers.
-/

namespace Sys2Proof.Machine

open Sys2Proof Sys2Proof.Claims

/-! ### The two shapes of a register instruction -/

/-- An instruction that ends in writing `b` to `V[x]`: what holds of `b` holds of `V[x]` after it; 2 on `PC`, and nothing
else. -/
theorem exec_of_setReg (P : Byte → Prop) {i : Instr} {s : State} {x : Reg} {b : Byte}
    (h : exec i s = .next (s.setReg x b).next) (hb : P b) :
    ∃ t, exec i s = .next t ∧ P (t.reg x) ∧ t.pc = s.pc + 2 ∧ RegsSameBut [x] s t ∧ SameBut [] s t := by
  obtain ⟨hregs, hitems, -⟩ := ((Frame.refl s).setReg (.head _) b).next
  refine ⟨_, h, ?_, rfl, hregs, hitems⟩
  rwa [State.reg_next, State.reg_setReg_same]

/-- The result stays in `V[x]` unless the flag, written last, goes there too (00_scope.md R11). -/
theorem regWithFlag_result {x : Reg} {b f : Byte} {s t : State} (h : regWithFlag x b f s = .next t) (hx : x ≠ vf) :
    t.reg x = b := by
  cases h
  rw [State.reg_next, State.reg_setRegFlag, if_neg hx, if_pos rfl]

/-- An instruction that writes the result `b`, then the flag `f`: what holds of `b` holds of `V[x]` after it where `x` is
not `VF`, and what holds of `f` holds of `VF`; 2 on `PC`, and nothing else. -/
theorem exec_of_regWithFlag (P Q : Byte → Prop) {i : Instr} {s : State} {x : Reg} {b f : Byte}
    (h : exec i s = regWithFlag x b f s) (hb : P b) (hf : Q f) :
    ∃ t, exec i s = .next t ∧ (x ≠ 15 → P (t.reg x)) ∧ Q (t.reg 15) ∧ t.pc = s.pc + 2 ∧
      RegsSameBut [x, 15] s t ∧ SameBut [] s t := by
  obtain ⟨hregs, hitems, -⟩ := ((Frame.refl s).setRegFlag (.head _) (.tail _ (.head _)) b f).next
  have hdone : regWithFlag x b f s = .next (s.setRegFlag x b f).next := rfl
  refine ⟨_, h, fun hx => ?_, ?_, rfl, hregs, hitems⟩
  · rwa [regWithFlag_result hdone hx]
  · show Q ((s.setRegFlag x b f).next.reg vf)
    rwa [regWithFlag_vf hdone]

/-! ### Results as numbers (41_alu.md R119) -/

/-- The wrapped difference of two bytes is the true difference modulo 256, also where that is negative. -/
theorem toNat_sub_byte (a b : Byte) : ((a - b).toNat : Int) = (a.toNat - b.toNat) % 256 := by
  have := b.isLt
  rw [BitVec.toNat_sub]
  omega

theorem toNat_shiftRight_one_byte (b : Byte) : (b >>> 1).toNat = b.toNat / 2 := by
  rw [BitVec.toNat_ushiftRight, Nat.shiftRight_one]

theorem toNat_shiftLeft_one_byte (b : Byte) : (b <<< 1).toNat = b.toNat * 2 % 256 := by
  rw [BitVec.toNat_shiftLeft, Nat.shiftLeft_eq]

/-! ### The instructions -/

/-- Settles O30: each writes its value to one register. -/
theorem loadAddCopyWriteTheDestination : Obligations.LoadAddCopyWriteTheDestination := by
  intro x y kk s
  refine ⟨⟨decodeWord_of_eq_encode (wordXKK_eq_formXKK 0x6 x kk), decodeWord_of_eq_encode (wordXKK_eq_formXKK 0x7 x kk),
    decodeWord_of_eq_encode (wordXYN_eq_formXYN 0x8 x y 0)⟩, ?_, ?_, ?_⟩
  · exact exec_of_setReg (· = kk) rfl rfl
  · exact exec_of_setReg (·.toNat = ((s.reg x).toNat + kk.toNat) % 256) rfl (BitVec.toNat_add _ _)
  · exact exec_of_setReg (· = s.reg y) rfl rfl

/-- Settles O31: the flag written after the result is 0. -/
theorem logicalOperationsClearTheFlag : Obligations.LogicalOperationsClearTheFlag := by
  intro x y s
  refine ⟨?_, ?_, ?_⟩
  · exact exec_of_regWithFlag (· = s.reg x ||| s.reg y) (· = 0) rfl rfl rfl
  · exact exec_of_regWithFlag (· = s.reg x &&& s.reg y) (· = 0) rfl rfl rfl
  · exact exec_of_regWithFlag (· = s.reg x ^^^ s.reg y) (· = 0) rfl rfl rfl

/-- Settles O32: the wrapped sum and differences as numbers, and the two flags by their comparisons. -/
theorem additionAndSubtractionSetTheFlag : Obligations.AdditionAndSubtractionSetTheFlag := by
  intro x y s
  refine ⟨?_, ?_, ?_⟩
  · exact exec_of_regWithFlag (·.toNat = ((s.reg x).toNat + (s.reg y).toNat) % 256)
      (· = if (s.reg x).toNat + (s.reg y).toNat > 255 then 1 else 0) rfl (BitVec.toNat_add _ _) (carryFlag_eq _ _)
  · exact exec_of_regWithFlag (fun b => (b.toNat : Int) = ((s.reg x).toNat - (s.reg y).toNat) % 256)
      (· = if (s.reg x).toNat > (s.reg y).toNat then 1 else 0) rfl (toNat_sub_byte _ _) (greaterFlag_eq _ _)
  · exact exec_of_regWithFlag (fun b => (b.toNat : Int) = ((s.reg y).toNat - (s.reg x).toNat) % 256)
      (· = if (s.reg y).toNat > (s.reg x).toNat then 1 else 0) rfl (toNat_sub_byte _ _) (greaterFlag_eq _ _)

/-- Settles O33: a shift by one halves or doubles, and the bit shifted out is the remainder or the carry. -/
theorem shiftsTakeTheSecondRegister : Obligations.ShiftsTakeTheSecondRegister := by
  intro x y s
  refine ⟨?_, ?_⟩
  · exact exec_of_regWithFlag (·.toNat = (s.reg y).toNat / 2) (·.toNat = (s.reg y).toNat % 2) rfl
      (toNat_shiftRight_one_byte _) (lowBitFlag_toNat _)
  · exact exec_of_regWithFlag (·.toNat = (s.reg y).toNat * 2 % 256) (·.toNat = (s.reg y).toNat / 128) rfl
      (toNat_shiftLeft_one_byte _) (highBitFlag_toNat _)

end Sys2Proof.Machine
end

section
/-!
PROOFS. The family 42_index_memory.md. The three memory instructions are runs of stores or loads behind the access check: for
each, a lemma says when it completes and with which state, and what is read after it follows from the rules of the run.
-/

namespace Sys2Proof.Machine

open Sys2Proof Sys2Proof.Claims

/-! ### Completion -/

theorem accessible_iff (s : State) (len : Nat) : Accessible s len ↔ accessFault s.params (s.dataAddr 0) len = none :=
  (accessFault_eq_none_iff _ _ _).symm

theorem exec_addI_completes {s : State} {x : Reg} (h : IndexCanAdd s (s.reg x).toNat) :
    exec (.addI x) s = .next (s.setI (s.i + BitVec.ofNat 16 (s.reg x).toNat)).next := by
  rw [exec_addI, addToI_ok h, andThen_ok]

theorem exec_addI_carry {s : State} {x : Reg} (ho : s.params.iOverflow = .fault) (h : 65536 ≤ s.i.toNat + (s.reg x).toNat) :
    exec (.addI x) s = .fault .indexOverflow := by
  rw [exec_addI, addToI_error ho h, andThen_error]

theorem exec_ldBcd_completes {s : State} (x : Reg) (ha : Accessible s 3) :
    exec (.ldBcd x) s = .next (s.writeBytes (s.dataAddr 0) (bcdDigits (s.reg x))).next := by
  rw [exec_ldBcd, guardAccess_of_none _ ((accessible_iff s 3).mp ha)]

/-- The stores before it change neither `I` nor the parameters, so they do not decide whether 1 may be added to `I`. -/
theorem exec_storeRegs_completes {s : State} {x : Reg} (ha : Accessible s (x.val + 1)) (hi : IndexCanAdd s 1) :
    exec (.storeRegs x) s = .next ((s.writeBytes (s.dataAddr 0) (s.regRun x)).setI (s.i + 1)).next := by
  have hadd : IndexCanAdd (s.writeBytes (s.dataAddr 0) (s.regRun x)) 1 := by
    rwa [IndexCanAdd, State.writeBytes_params, State.writeBytes_i]
  rw [exec_storeRegs, runLength, guardAccess_of_none _ ((accessible_iff s _).mp ha), addToI_ok hadd, andThen_ok,
    State.writeBytes_i]
  rfl

theorem exec_loadRegs_completes {s : State} {x : Reg} (ha : Accessible s (x.val + 1)) (hi : IndexCanAdd s 1) :
    exec (.loadRegs x) s = .next ((s.loadRun (s.dataAddr 0) x).setI (s.i + 1)).next := by
  have hadd : IndexCanAdd (s.loadRun (s.dataAddr 0) x) 1 := hi
  rw [exec_loadRegs, runLength, guardAccess_of_none _ ((accessible_iff s _).mp ha), addToI_ok hadd, andThen_ok]
  rfl

/-! ### The index register (R151 to R153) -/

/-- Five times a byte fits in 16 bits. -/
theorem glyphAddr_toNat (b : Byte) : (glyphAddr b).toNat = 5 * b.toNat := by
  have := b.isLt
  rw [glyphAddr, BitVec.toNat_mul, zext16_toNat]
  exact Nat.mod_eq_of_lt (show 5 * b.toNat < 2 ^ 16 by omega)

theorem toNat_add_ofNat_byte (w : Word) (b : Byte) :
    (w + BitVec.ofNat 16 b.toNat).toNat = (w.toNat + b.toNat) % 65536 := by
  rw [BitVec.toNat_add, BitVec.toNat_ofNat, Nat.add_mod_mod]

/-- An instruction that ends in `I <- a`: 2 on `PC`, and nothing else. -/
theorem exec_of_setI {i : Instr} {s : State} {a : Word} {n : Nat} (h : exec i s = .next (s.setI a).next) (ha : a.toNat = n) :
    ∃ t, exec i s = .next t ∧ t.i.toNat = n ∧ t.pc = s.pc + 2 ∧ RegsSameBut [] s t ∧ SameBut [.i] s t := by
  obtain ⟨hregs, hitems, -⟩ := ((Frame.refl s).setI (.head _) a).next
  exact ⟨_, h, ha, rfl, hregs, hitems⟩

/-- Settles O34: neither the widened address nor five times a byte is reduced by the 16 bits of `I`. -/
theorem indexLoadsSetTheIndex : Obligations.IndexLoadsSetTheIndex := fun nnn x s =>
  ⟨⟨decodeWord_of_eq_encode (wordNNN_eq_formNNN 0xA nnn), decodeWord_of_eq_encode (wordXKK_eq_formXKK 0xF x 0x29)⟩,
    exec_of_setI rfl (zextAddr_toNat nnn), exec_of_setI rfl (glyphAddr_toNat (s.reg x))⟩

/-- Settles O35: the two sides of the addition to `I`. -/
theorem addToIndexIsSixteenBits : Obligations.AddToIndexIsSixteenBits := fun x s =>
  ⟨fun h => exec_of_setI (exec_addI_completes h) (toNat_add_ofNat_byte s.i (s.reg x)), exec_addI_carry⟩

/-! ### Decimal digits (R154) -/

/-- A number below 256 is kept by the byte it is stored in. -/
theorem toNat_ofNat_byte {n : Nat} (h : n < 256) : (BitVec.ofNat 8 n).toNat = n := by
  rw [BitVec.toNat_ofNat, Nat.mod_eq_of_lt h]

theorem exec_ldBcd_readByte {s t : State} {x : Reg} (h : exec (.ldBcd x) s = .next t) {k : Nat}
    (hk : k < (bcdDigits (s.reg x)).length) : t.readByte (s.dataAddr k) = (bcdDigits (s.reg x))[k] := by
  obtain ⟨-, rfl⟩ := exec_ldBcd_next h
  exact State.readByte_writeBytes_at s (s.dataAddr 0) (bcdDigits (s.reg x)) (show 3 ≤ memSize by decide) hk

theorem exec_ldBcd_readByte_other {s t : State} {x : Reg} {a : Nat} (h : exec (.ldBcd x) s = .next t)
    (ha : ∀ k < 3, cellOf (s.dataAddr k) ≠ cellOf a) : t.readByte a = s.readByte a := by
  obtain ⟨-, rfl⟩ := exec_ldBcd_next h
  exact State.readByte_writeBytes_other s (s.dataAddr 0) a _ ha

/-- Settles O36: the three stores are read back, and a digit is small enough for a byte. -/
theorem decimalStoreWritesThreeDigits : Obligations.DecimalStoreWritesThreeDigits := by
  intro x s ha
  have hexec := exec_ldBcd_completes x ha
  have := (s.reg x).isLt
  obtain ⟨hregs, hitems, -⟩ := exec_frame hexec
  refine ⟨_, hexec, ?hundreds, ?tens, ?ones, fun a => exec_ldBcd_readByte_other hexec, rfl, hregs, hitems⟩
  case hundreds =>
    rw [exec_ldBcd_readByte hexec (k := 0) (Nat.succ_pos 2)]
    exact toNat_ofNat_byte (by omega)
  case tens =>
    rw [exec_ldBcd_readByte hexec (k := 1) (show 1 < 3 by decide)]
    exact toNat_ofNat_byte (by omega)
  case ones =>
    rw [exec_ldBcd_readByte hexec (k := 2) (show 2 < 3 by decide)]
    exact toNat_ofNat_byte (by omega)

/-! ### Register runs (R155, R156) -/

theorem exec_storeRegs_readByte_other {s t : State} {x : Reg} {a : Nat} (h : exec (.storeRegs x) s = .next t)
    (ha : ∀ k ≤ x.val, cellOf (s.dataAddr k) ≠ cellOf a) : t.readByte a = s.readByte a := by
  obtain ⟨-, rfl⟩ := exec_storeRegs_next h
  refine State.readByte_writeBytes_other s (s.dataAddr 0) a _ fun k hk => ?_
  rw [regRun_length] at hk
  exact ha k (Nat.le_of_lt_succ hk)

/-- What FX65 leaves in each register: the byte at its place in the run, or above `x` its old value. -/
theorem exec_loadRegs_reg {s t : State} {x : Reg} (h : exec (.loadRegs x) s = .next t) (r : Reg) :
    t.reg r = if r ≤ x then s.readByte (s.dataAddr r.val) else s.reg r := by
  obtain ⟨-, rfl⟩ := exec_loadRegs_next h
  exact reg_loadRun s (s.dataAddr 0) x r

/-- Settles O37: each stored register is read back at its place, and no other cell was stored to. -/
theorem registerStoreWritesTheRun : Obligations.RegisterStoreWritesTheRun := by
  intro x s ha hi
  have hexec := exec_storeRegs_completes ha hi
  obtain ⟨hregs, hitems, -⟩ := exec_frame hexec
  exact ⟨_, hexec, fun r => exec_storeRegs_readByte hexec, fun a => exec_storeRegs_readByte_other hexec, rfl,
    congrArg (· + 2) (State.writeBytes_pc s _ _), hregs, hitems⟩

/-- Settles O38: the registers of the run hold the bytes read, the others what they held. -/
theorem registerLoadReadsTheRun : Obligations.RegisterLoadReadsTheRun := by
  intro x s ha hi
  have hexec := exec_loadRegs_completes ha hi
  refine ⟨_, hexec, fun r hr => ?_, fun r hr => ?_, rfl, rfl, (exec_frame hexec).itemsSame⟩
  · rw [exec_loadRegs_reg hexec, if_pos hr]
  · rw [exec_loadRegs_reg hexec, if_neg (not_le.mpr hr)]

/-- Settles O39: the load reads the addresses of the store, and there the stored registers. -/
theorem loadAfterStoreGivesTheRegistersBack : Obligations.LoadAfterStoreGivesTheRegistersBack := by
  intro x s t u v hstore hmem hparams hi hload r hr
  have haddr : u.dataAddr r.val = s.dataAddr r.val := congrArg (·.toNat + r.val) hi
  calc v.reg r
    _ = u.readByte (u.dataAddr r.val) := (exec_loadRegs_reg hload r).trans (if_pos hr)
    _ = t.readByte (s.dataAddr r.val) := by rw [haddr, State.readByte_congr hparams hmem]
    _ = s.reg r := exec_storeRegs_readByte hstore hr

end Sys2Proof.Machine
end

section
/-!
PROOFS. The family 43_display.md. The statements about a line and a collision are about single bits. DXYN is one equation
for every row, `exec_drw_row`: the row exclusive-ored with its line, which is 0 outside the rows drawn; two draws of the
same lines cancel.
-/

namespace Sys2Proof.Machine

open Sys2Proof Sys2Proof.Claims

/-! ### Clearing (R171) -/

/-- Settles O41: the clear writes the zero rows to the framebuffer alone. -/
theorem clearScreenZeroesEveryRow : Obligations.ClearScreenZeroesEveryRow := by
  refine ⟨decodeWord_encode .cls, fun s => ?_⟩
  obtain ⟨hregs, hitems, -⟩ := exec_frame (i := .cls) (s := s) rfl
  exact ⟨_, rfl, Vector.toList_replicate, rfl, hregs, hitems⟩

/-! ### The line of a sprite byte (R170) -/

/-- Bit `k` of a line is bit `k + cx` of the byte standing in the leftmost columns, bits 56 to 63. -/
theorem getLsbD_spriteLine (b : Byte) (cx k : Nat) : (spriteLine b cx).getLsbD k =
    (decide (56 ≤ cx + k) && decide (cx + k < 64) && b.getLsbD (cx + k - 56)) := by
  rw [spriteLine, BitVec.getLsbD_ushiftRight, BitVec.getLsbD_shiftLeft, BitVec.getLsbD_setWidth]
  by_cases hlow : 56 ≤ cx + k
  · by_cases hhigh : cx + k < 64
    · simp [hlow, hhigh, Nat.not_lt.mpr hlow, show cx + k - 56 < 64 by omega]
    · simp [hhigh]
  · simp [hlow, Nat.lt_of_not_le hlow]

/-- Settles O42: column `c` is bit `63 - c`, and the byte's bits count down from 63 as its columns count up. -/
theorem spriteLineGeometry : Obligations.SpriteLineGeometry := by
  intro b cx c hcx hc
  rw [getLsbD_spriteLine]
  by_cases hleft : cx ≤ c
  · by_cases hright : c < cx + 8
    · have hbit : cx + (63 - c) - 56 = 7 - (c - cx) := by omega
      simp [hleft, hright, hbit, show 56 ≤ cx + (63 - c) by omega, show cx + (63 - c) < 64 by omega]
    · simp [hright, show ¬56 ≤ cx + (63 - c) by omega]
  · simp [hleft, show ¬cx + (63 - c) < 64 by omega]

/-! ### The collision bit (R172) -/

theorem collisionFlag_eq_one_iff_and_ne (old line : Quad) : collisionFlag old line = 1 ↔ old &&& line ≠ 0 := by
  rw [collisionFlag_eq]
  by_cases h : old &&& line = 0 <;> simp [h]

/-- The conjunction of two rows is not 0 where some pixel is on in both. -/
theorem and_ne_zero_iff_exists_bit (a b : Quad) :
    a &&& b ≠ 0 ↔ ∃ k, a.getLsbD k = true ∧ b.getLsbD k = true := by
  simp [BitVec.zero_iff_eq_false]

/-- Bit by bit, or and exclusive-or differ where both bits are 1 only. -/
theorem or_eq_xor_iff_and_eq_zero (a b : Quad) : a ||| b = a ^^^ b ↔ a &&& b = 0 := by
  have hbit : ∀ x y : Bool, (x || y) = (x ^^ y) ↔ (x && y) = false := by decide
  calc a ||| b = a ^^^ b
    _ ↔ ∀ k, (a ||| b).getLsbD k = (a ^^^ b).getLsbD k :=
      ⟨fun h k => by rw [h], fun h => BitVec.eq_of_getLsbD_eq fun k _ => h k⟩
    _ ↔ ∀ k, (a &&& b).getLsbD k = false :=
      forall_congr' fun k => by rw [BitVec.getLsbD_or, BitVec.getLsbD_xor, BitVec.getLsbD_and, hbit]
    _ ↔ a &&& b = 0 := BitVec.zero_iff_eq_false.symm

/-- Settles O43: a pixel on in `old` is off after the exclusive-or exactly where it is on in the line too. -/
theorem collisionIsAPixelTurnedOff : Obligations.CollisionIsAPixelTurnedOff := by
  intro old line
  refine ⟨collisionFlag_eq old line, ?turnedOff, ?orXor⟩
  case turnedOff =>
    rw [collisionFlag_eq_one_iff_and_ne, and_ne_zero_iff_exists_bit]
    refine exists_congr fun k =>
      ⟨fun ⟨hold, hline⟩ => ⟨BitVec.lt_of_getLsbD hold, hold, ?_⟩, fun ⟨_, hold, hoff⟩ => ⟨hold, ?_⟩⟩
    · rw [BitVec.getLsbD_xor, hold, hline, Bool.xor_self]
    · simpa [hold] using hoff
  case orXor => rw [collisionFlag_eq_one_iff_and_ne, Ne, Ne, or_eq_xor_iff_and_eq_zero]

/-! ### Drawing (R173) -/

theorem row_eq_getElem (s : State) {r : Nat} (h : r < 32) : s.row r = s.fb[r] := by
  simp [State.row, List.getD_eq_getElem?_getD, h]

/-- The framebuffer is its rows. -/
theorem fb_eq_of_row_eq {s t : State} (h : ∀ r, t.row r = s.row r) : t.fb = s.fb := by
  refine Vector.ext fun r hr => ?_
  rw [← row_eq_getElem t hr, ← row_eq_getElem s hr, h]

@[simp] theorem drawRows_pc (s : State) (cx r : Nat) (bs : List Byte) : (s.drawRows cx r bs).pc = s.pc := by
  obtain ⟨f, v, hdraw, -⟩ := drawRows_frame s cx r bs
  rw [hdraw]
  rfl

/-- `VF` after a last row is that row's collision flag: the rows above it are drawn elsewhere (D24, log 18). -/
theorem drawRows_concat_vf (s : State) (cx r : Nat) (bs : List Byte) (b : Byte) (h : r + bs.length < 32) :
    (s.drawRows cx r (bs ++ [b])).reg vf = collisionFlag (s.row (r + bs.length)) (spriteLine b cx) := by
  rw [drawRows_append]
  show ((s.drawRows cx r bs).drawRow cx (r + bs.length) b).reg vf = _
  rw [reg_drawRow, if_pos rfl, row_drawRows s cx r bs h.le, dif_neg (by omega)]

theorem readBytes_succ (s : State) (a n : Nat) : s.readBytes a (n + 1) = s.readBytes a n ++ [s.readByte (a + n)] := by
  simp [State.readBytes, List.range_succ]

/-- The sprite is clipped at the bottom edge. -/
theorem startRow_add_spriteRows_le (s : State) (y : Reg) (n : Nibble) : startRow (s.reg y) + s.spriteRows y n ≤ 32 := by
  have : startRow (s.reg y) < 32 := Nat.mod_lt _ (by decide)
  unfold State.spriteRows drawnRows fbRows
  omega

theorem exec_drw_completes {s : State} (x y : Reg) (n : Nibble) (ha : Accessible s (s.spriteRows y n)) :
    exec (.drw x y n) s = .next
      (s.drawRows (startCol (s.reg x)) (startRow (s.reg y)) (s.readBytes (s.dataAddr 0) (s.spriteRows y n))).next := by
  rw [exec_drw, guardAccess_of_none _ ((accessible_iff s _).mp ha)]

/-- What DXYN exclusive-ors row `r` with: the line of the row's sprite byte, or 0 for a row it does not draw. -/
def State.drawnLine (s : State) (x y : Reg) (n : Nibble) (r : Nat) : Quad :=
  if startRow (s.reg y) ≤ r ∧ r < startRow (s.reg y) + s.spriteRows y n then
    spriteLine (s.readByte (s.dataAddr (r - startRow (s.reg y)))) (startCol (s.reg x))
  else 0

theorem drawnLine_add {s : State} (x : Reg) {y : Reg} {n : Nibble} {r : Nat} (h : r < s.spriteRows y n) :
    s.drawnLine x y n (startRow (s.reg y) + r) = spriteLine (s.readByte (s.dataAddr r)) (startCol (s.reg x)) := by
  rw [State.drawnLine, if_pos (by omega), Nat.add_sub_cancel_left]

theorem drawnLine_of_outside {s : State} (x : Reg) {y : Reg} {n : Nibble} {r : Nat}
    (h : r < startRow (s.reg y) ∨ startRow (s.reg y) + s.spriteRows y n ≤ r) : s.drawnLine x y n r = 0 :=
  if_neg (by omega)

/-- The lines depend on memory, `I`, the parameters and the two coordinates only. -/
theorem drawnLine_congr {s u : State} {x y : Reg} (n : Nibble) (r : Nat) (hmem : u.mem = s.mem)
    (hparams : u.params = s.params) (hi : u.i = s.i) (hx : u.reg x = s.reg x) (hy : u.reg y = s.reg y) :
    u.drawnLine x y n r = s.drawnLine x y n r := by
  unfold State.drawnLine State.spriteRows State.dataAddr
  rw [hx, hy, hi, State.readByte_congr hparams hmem]

/-- DXYN on every row: what it was, exclusive-ored with the row's line. -/
theorem exec_drw_row {s t : State} {x y : Reg} {n : Nibble} (h : exec (.drw x y n) s = .next t) (r : Nat) :
    t.row r = s.row r ^^^ s.drawnLine x y n r := by
  obtain ⟨-, rfl⟩ := exec_drw_next h
  rw [State.row_next, row_drawRows _ _ _ _ (by rw [State.readBytes_length]; exact startRow_add_spriteRows_le s y n)]
  simp only [State.readBytes_length, State.readBytes_getElem]
  unfold State.drawnLine
  split
  · rfl
  · exact BitVec.xor_zero.symm

/-- `VF` after DXYN stays where no row is drawn (D6, log 12). -/
theorem exec_drw_vf_of_no_row {s t : State} {x y : Reg} {n : Nibble} (h : exec (.drw x y n) s = .next t)
    (hrows : s.spriteRows y n = 0) : t.reg vf = s.reg vf := by
  obtain ⟨-, rfl⟩ := exec_drw_next h
  rw [hrows]
  rfl

/-- `VF` after DXYN is the collision bit of the last row drawn (D24, log 18). -/
theorem exec_drw_vf_of_last_row {s t : State} {x y : Reg} {n : Nibble} (h : exec (.drw x y n) s = .next t) {k : Nat}
    (hrows : s.spriteRows y n = k + 1) : t.reg vf = collisionFlag (s.row (startRow (s.reg y) + k))
      (spriteLine (s.readByte (s.dataAddr k)) (startCol (s.reg x))) := by
  obtain ⟨-, rfl⟩ := exec_drw_next h
  have hclip := startRow_add_spriteRows_le s y n
  rw [State.reg_next, hrows, readBytes_succ, drawRows_concat_vf _ _ _ _ _ (by rw [State.readBytes_length]; omega),
    State.readBytes_length]
  rfl

/-- Settles O44: the equation of every row, `VF` in its two cases, and the frame. -/
theorem drawXorsTheClippedSprite : Obligations.DrawXorsTheClippedSprite := by
  rintro x y n s cx cy rows rfl rfl rfl ha
  have hexec := exec_drw_completes x y n ha
  obtain ⟨hregs, hitems, -⟩ := exec_frame hexec
  refine ⟨_, hexec, fun r hr => ?drawn, fun r hr => ?kept, exec_drw_vf_of_no_row hexec, fun k hk => ?last, ?pc,
    hregs, hitems⟩
  case drawn => exact (exec_drw_row hexec _).trans (congrArg _ (drawnLine_add x hr))
  case kept =>
    rw [exec_drw_row hexec, drawnLine_of_outside x hr]
    exact BitVec.xor_zero
  case last => exact (exec_drw_vf_of_last_row hexec hk).trans (collisionFlag_eq _ _)
  case pc => rw [State.next_pc, drawRows_pc]

/-- Settles O45: the second draw exclusive-ors every row with the line of the first. -/
theorem drawingTwiceRestoresTheFramebuffer : Obligations.DrawingTwiceRestoresTheFramebuffer := by
  intro x y n s t u v hfirst hfb hmem hparams hi hx hy hsecond
  refine fb_eq_of_row_eq fun r => ?_
  have hline : u.drawnLine x y n r = s.drawnLine x y n r := drawnLine_congr n r hmem hparams hi hx hy
  calc v.row r
    _ = u.row r ^^^ u.drawnLine x y n r := exec_drw_row hsecond r
    _ = s.row r ^^^ s.drawnLine x y n r ^^^ s.drawnLine x y n r := by
      rw [State.row_congr hfb, hline, exec_drw_row hfirst]
    _ = s.row r := by rw [BitVec.xor_assoc, BitVec.xor_self, BitVec.xor_zero]

end Sys2Proof.Machine
end

section
/-!
PROOFS. The family 44_timer_key_random.md. CXKK is one lemma about the states after it, and its fixed point 0 is that of each
xor-shift; a key skip is `skip` on `KeyDown` as a condition, FX0A the scan for the least set bit; a timer's count-down is
saturating subtraction.
-/

namespace Sys2Proof.Machine

open Sys2Proof Sys2Proof.Claims

/-! ### Random numbers (R191, R192) -/

/-- Shifting 0 gives 0, so an exclusive-or shift keeps it, whatever its direction and amount. -/
@[simp] theorem xorShift_zero (x : XorShift) : xorShift x 0 = 0 := by
  unfold xorShift
  cases x.dir with
  | left => simp
  | right => simp

@[simp] theorem rngStep_zero (p : Params) : rngStep p 0 = 0 := by
  simp only [rngStep, xorShift_zero]

/-- The random byte as the low bits of the random state that `stepRng` leaves. -/
theorem randomByte_eq_extractLsb' (s : State) : s.randomByte = s.stepRng.rng.extractLsb' 0 8 :=
  BitVec.setWidth_eq_extractLsb' (by decide)

/-- CXKK: the new random state, and its masked low byte in `V[x]`. -/
theorem exec_rnd_next {x : Reg} {kk : Byte} {s t : State} (h : exec (.rnd x kk) s = .next t) :
    t.rng = rngStep s.params s.rng ∧ t.reg x = t.rng.extractLsb' 0 8 &&& kk := by
  cases h
  refine ⟨rfl, ?_⟩
  rw [State.reg_next, State.reg_setReg_same, randomByte_eq_extractLsb', State.next_rng, State.setReg_rng]

/-- Settles O47: 0 is a fixed point of each of the three steps, and its low byte is 0. -/
theorem zeroRandomStateStaysZero : Obligations.ZeroRandomStateStaysZero := by
  intro x kk s t hzero hexec
  obtain ⟨hrng, hreg⟩ := exec_rnd_next hexec
  rw [hzero, rngStep_zero] at hrng
  exact ⟨hrng, by simp [hreg, hrng]⟩

/-- Settles O46: the state after CXKK, and the frame. -/
theorem randomAdvancesOnceAndMasks : Obligations.RandomAdvancesOnceAndMasks := by
  intro x kk s
  have hexec : exec (.rnd x kk) s = .next (s.stepRng.setReg x (s.randomByte &&& kk)).next := rfl
  obtain ⟨hrng, hreg⟩ := exec_rnd_next hexec
  obtain ⟨hregs, hitems, -⟩ := exec_frame hexec
  exact ⟨decodeWord_of_eq_encode (wordXKK_eq_formXKK 0xC x kk), _, hexec, hrng, hreg, rfl, hregs, hitems⟩

/-! ### Keys (R193 to R196) -/

/-- `KeyDown` as the condition it decides (R193). -/
theorem keyDown_eq_decide (s : State) (k : Byte) :
    s.keyDown k = decide (k.toNat ≤ 15 ∧ s.keys.getLsbD k.toNat = true) := by
  rw [State.keyDown, Bool.decide_and, Bool.decide_eq_true]

/-- Settles O48: each skip is `skip` on `KeyDown` of `V[x]`, or on its failing. -/
theorem keySkipsTestOneKey : Obligations.KeySkipsTestOneKey := by
  intro x s
  refine ⟨exec_of_skip ?skp, exec_of_skip_not ?sknp⟩
  case skp =>
    rw [← keyDown_eq_decide]
    rfl
  case sknp =>
    rw [decide_not, ← keyDown_eq_decide]
    rfl

/-- The scan finds a key that is down where none below it is. -/
theorem lowestKey_of_least {s : State} {k : Nat} (hk : k < 16) (hdown : s.keys.getLsbD k = true)
    (hleast : ∀ j < k, s.keys.getLsbD j = false) : s.lowestKey = some k := by
  rw [State.lowestKey, List.find?_range_eq_some]
  exact ⟨hdown, List.mem_range.mpr hk, fun j hj => by rw [hleast j hj]; rfl⟩

theorem exec_ldVxKey_of_keys_eq_zero {s : State} (x : Reg) (h : s.keys = 0) : exec (.ldVxKey x) s = .next s := by
  rw [exec_ldVxKey, (lowestKey_eq_none_iff s).mpr h]

theorem exec_ldVxKey_of_lowestKey {s : State} {k : Nat} (x : Reg) (h : s.lowestKey = some k) :
    exec (.ldVxKey x) s = .next (s.setReg x (BitVec.ofNat 8 k)).next := by
  rw [exec_ldVxKey, h]

/-- Settles O49: the two answers of the scan, and a key number fits in a byte. -/
theorem keyWaitReadsTheLowestKey : Obligations.KeyWaitReadsTheLowestKey := by
  refine fun x s => ⟨exec_ldVxKey_of_keys_eq_zero x, fun k hk hdown hleast => ?_⟩
  have hexec := exec_ldVxKey_of_lowestKey x (lowestKey_of_least hk hdown hleast)
  exact exec_of_setReg (·.toNat = k) hexec (toNat_ofNat_byte (by omega))

/-! ### Timers (R197 to R199) -/

theorem State.countDown_dt_toNat (s : State) : s.countDown.dt.toNat = s.dt.toNat - 1 := decTimer_toNat s.dt

theorem State.countDown_st_toNat (s : State) : s.countDown.st.toNat = s.st.toNat - 1 := decTimer_toNat s.st

/-- Settles O50: FX07 leaves `DT` for the count-down to take 1 from; FX15 and FX18 hand it `V[x]`. -/
theorem timerInstructionsWithTheCountDown : Obligations.TimerInstructionsWithTheCountDown := by
  intro x s
  refine ⟨⟨decodeWord_of_eq_encode (wordXKK_eq_formXKK 0xF x 0x07), decodeWord_of_eq_encode (wordXKK_eq_formXKK 0xF x 0x15),
    decodeWord_of_eq_encode (wordXKK_eq_formXKK 0xF x 0x18)⟩, ?ldVxDt, ?ldDtVx, ?ldStVx⟩
  case ldVxDt =>
    obtain ⟨hregs, hitems, -⟩ := exec_frame (i := .ldVxDt x) (s := s) rfl
    exact ⟨_, rfl, State.reg_setReg_same s x s.dt, State.countDown_dt_toNat _, rfl, hregs, hitems⟩
  case ldDtVx =>
    obtain ⟨hregs, hitems, -⟩ := exec_frame (i := .ldDtVx x) (s := s) rfl
    exact ⟨_, rfl, rfl, State.countDown_dt_toNat _, rfl, hregs, hitems⟩
  case ldStVx =>
    obtain ⟨hregs, hitems, -⟩ := exec_frame (i := .ldStVx x) (s := s) rfl
    exact ⟨_, rfl, rfl, State.countDown_st_toNat _, rfl, hregs, hitems⟩

end Sys2Proof.Machine
end

section
/-!
PROOFS. The family 60_exceptions.md. `Raises` says for every instruction when it raises and what; it is shown to be all that
stops an instruction, and the statements about raises are read off it. The ports' statements follow the invariant and the
frame; the delay timer is an induction over the ticks.
-/

namespace Sys2Proof.Machine

open Sys2Proof Sys2Proof.Claims

/-! ### The access check (R212) -/

/-- Settles O15: of a range that passes the end of memory, the first address outside is its start or 0x1000. -/
theorem faultAddressIsTheLowestOutside : Obligations.FaultAddressIsTheLowestOutside := by
  intro p base len a h
  obtain ⟨-, hlen, hend, rfl⟩ := (accessFault_eq_some_iff p base len a).mp h
  simp only [memSize] at hend ⊢
  exact ⟨by omega, by omega, by omega, fun b _ hlt => by omega⟩

/-- Settles O7: the fetch's two addresses from 0x0FFF on pass the end of memory. -/
theorem fetchOutsideMemoryFaults : Obligations.FetchOutsideMemoryFaults := by
  intro s hoob hpc
  apply guardAccess_of_some
  rw [accessFault_eq_some_iff]
  refine ⟨hoob, by decide, ?_, ?_⟩
  · simp only [memSize]
    omega
  · simp only [memSize]
    split <;> omega

/-! ### What stops an instruction -/

/-- `Raises i s e`: the instruction `i` cannot go through in the state `s`, and `e` is the raise (R211 to R213 and, for `I`,
42_index_memory.md R152). -/
inductive Raises : Instr → State → Fault → Prop
  | emptyStack {s : State} : s.sp = 0 → Raises .ret s .poppedEmptyStack
  | fullStack {s : State} (nnn : Addr12) : s.sp = s.params.stackDepth → Raises (.call nnn) s .stackOverflow
  | outside {i : Instr} {s : State} : ¬ Accessible s (dataLength s i) → Raises i s (.addressFault (max s.i.toNat memSize))
  | carry {i : Instr} {s : State} : Accessible s (dataLength s i) → ¬ IndexCanAdd s (indexAddend s i) →
      Raises i s .indexOverflow

theorem accessFault_of_not_accessible {s : State} {len : Nat} (h : ¬ Accessible s len) :
    accessFault s.params (s.dataAddr 0) len = some (max s.i.toNat memSize) := by
  cases ha : accessFault s.params (s.dataAddr 0) len with
  | none => exact absurd ((accessible_iff s len).mpr ha) h
  | some a =>
    obtain ⟨-, -, -, rfl⟩ := (accessFault_eq_some_iff _ _ _ _).mp ha
    rfl

theorem accessible_zero (s : State) : Accessible s 0 := .inr (.inl rfl)

theorem indexCanAdd_zero (s : State) : IndexCanAdd s 0 := .inr s.i.isLt

theorem addToI_of_not_indexCanAdd {s : State} {k : Nat} (h : ¬ IndexCanAdd s k) : s.addToI k = .error .indexOverflow := by
  obtain ⟨hwrap, hcarry⟩ := not_or.mp h
  cases ho : s.params.iOverflow with
  | wrap16 => exact absurd ho hwrap
  | fault => exact addToI_error ho (Nat.not_lt.mp hcarry)

/-- An instruction whose data range passes the end of memory raises `AddressFault` first. -/
theorem exec_of_not_accessible {i : Instr} {s : State} (h : ¬ Accessible s (dataLength s i)) :
    exec i s = .fault (.addressFault (max s.i.toNat memSize)) := by
  have hfault := accessFault_of_not_accessible h
  cases i with
  | drw _ _ _ | ldBcd _ | storeRegs _ | loadRegs _ => exact guardAccess_of_some _ hfault
  | _ => exact absurd (accessible_zero s) h

/-- An instruction that may access its data but not add to `I` raises the fault of `I_OVERFLOW`. -/
theorem exec_of_not_indexCanAdd {i : Instr} {s : State} (ha : Accessible s (dataLength s i))
    (hi : ¬ IndexCanAdd s (indexAddend s i)) : exec i s = .fault .indexOverflow := by
  cases i with
  | addI x =>
    have hadd : ¬ IndexCanAdd s (s.reg x).toNat := hi
    rw [exec_addI, addToI_of_not_indexCanAdd hadd, andThen_error]
  | storeRegs x =>
    have hadd : ¬ IndexCanAdd (s.writeBytes (s.dataAddr 0) (s.regRun x)) 1 := by
      rwa [IndexCanAdd, State.writeBytes_params, State.writeBytes_i]
    rw [exec_storeRegs, guardAccess_of_none _ ((accessible_iff s (runLength x)).mp ha),
      addToI_of_not_indexCanAdd hadd, andThen_error]
  | loadRegs x =>
    have hadd : ¬ IndexCanAdd (s.loadRun (s.dataAddr 0) x) 1 := hi
    rw [exec_loadRegs, guardAccess_of_none _ ((accessible_iff s (runLength x)).mp ha),
      addToI_of_not_indexCanAdd hadd, andThen_error]
  | _ => exact absurd (indexCanAdd_zero s) hi

theorem exec_of_raises {i : Instr} {s : State} {e : Fault} (h : Raises i s e) : exec i s = .fault e := by
  cases h with
  | emptyStack hsp => exact exec_ret_empty (List.length_eq_zero_iff.mp hsp)
  | fullStack nnn hsp => exact exec_call_full nnn hsp
  | outside ha => exact exec_of_not_accessible ha
  | carry ha hi => exact exec_of_not_indexCanAdd ha hi

/-- That an instruction raises nothing, as the four conditions of R214 and R216. -/
theorem not_raises_iff (i : Instr) (s : State) : (∀ e, ¬ Raises i s e) ↔
    (i = .ret → s.sp ≠ 0) ∧ (∀ nnn, i = .call nnn → s.sp ≠ s.params.stackDepth) ∧
      Accessible s (dataLength s i) ∧ IndexCanAdd s (indexAddend s i) := by
  constructor
  · intro h
    have ha : Accessible s (dataLength s i) := by_contra fun hn => h _ (.outside hn)
    refine ⟨?_, ?_, ha, by_contra fun hn => h _ (.carry ha hn)⟩
    · rintro rfl hsp
      exact h _ (.emptyStack hsp)
    · rintro nnn rfl hsp
      exact h _ (.fullStack nnn hsp)
  · rintro ⟨hret, hcall, ha, hi⟩ e he
    cases he with
    | emptyStack hsp => exact hret rfl hsp
    | fullStack nnn hsp => exact hcall nnn rfl hsp
    | outside hn => exact hn ha
    | carry _ hn => exact hn hi

/-- Nothing else stops any of the 34. -/
theorem exec_completes_of_not_raises {i : Instr} {s : State} (h : ∀ e, ¬ Raises i s e) : ∃ t, exec i s = .next t := by
  obtain ⟨hret, hcall, ha, hi⟩ := (not_raises_iff i s).mp h
  cases i with
  | ret =>
    obtain hs | ⟨l, a, hs⟩ := List.eq_nil_or_concat' s.stack
    · exact absurd (List.length_eq_zero_iff.mpr hs) (hret rfl)
    · exact ⟨_, exec_ret_concat hs⟩
  | call nnn => exact ⟨_, exec_call_room nnn (hcall nnn rfl)⟩
  | addI x => exact ⟨_, exec_addI_completes hi⟩
  | ldBcd x => exact ⟨_, exec_ldBcd_completes x ha⟩
  | storeRegs x => exact ⟨_, exec_storeRegs_completes ha hi⟩
  | loadRegs x => exact ⟨_, exec_loadRegs_completes ha hi⟩
  | drw x y n => exact ⟨_, exec_drw_completes x y n ha⟩
  | ldVxKey x =>
    cases hk : s.lowestKey with
    | none => exact ⟨_, exec_ldVxKey_of_keys_eq_zero x ((lowestKey_eq_none_iff s).mp hk)⟩
    | some k => exact ⟨_, exec_ldVxKey_of_lowestKey x hk⟩
  | _ => exact ⟨_, rfl⟩

/-- What an instruction can answer: a next state, or the raise that stops it. -/
theorem exec_next_or_raises (i : Instr) (s : State) :
    (∃ t, exec i s = .next t) ∨ ∃ e, Raises i s e ∧ exec i s = .fault e := by
  by_cases h : ∃ e, Raises i s e
  · obtain ⟨e, he⟩ := h
    exact .inr ⟨e, he, exec_of_raises he⟩
  · exact .inl (exec_completes_of_not_raises (not_exists.mp h))

theorem exec_eq_fault_iff (i : Instr) (s : State) (e : Fault) : exec i s = .fault e ↔ Raises i s e := by
  refine ⟨fun h => ?_, exec_of_raises⟩
  obtain ⟨t, ht⟩ | ⟨e', he', hexec⟩ := exec_next_or_raises i s
  · cases ht.symm.trans h
  · obtain rfl : e' = e := Host.Outcome.fault.inj (hexec.symm.trans h)
    exact he'

theorem exec_ne_refused (i : Instr) (s : State) (r : Refusal) : exec i s ≠ .refused r := by
  intro h
  obtain ⟨t, ht⟩ | ⟨e, -, he⟩ := exec_next_or_raises i s
  · cases ht.symm.trans h
  · cases he.symm.trans h

/-- Settles O13: an instruction answers a next state exactly when it raises nothing. -/
theorem instructionsCompleteExactlyWhen : Obligations.InstructionsCompleteExactlyWhen := by
  intro i s
  rw [← not_raises_iff]
  refine ⟨fun ⟨t, ht⟩ e he => ?_, exec_completes_of_not_raises⟩
  cases ht.symm.trans (exec_of_raises he)

/-- Settles O14: a range that passes 0x0FFF under `fault` is not accessible. -/
theorem dataAccessOutsideMemoryFaults : Obligations.DataAccessOutsideMemoryFaults := by
  intro i s hoob hlen hend
  apply exec_of_not_accessible
  rintro (hwrap | hzero | hfits)
  · cases hoob.symm.trans hwrap
  · exact hlen hzero
  · exact Nat.not_le.mpr hend hfits

/-! ### The raises of a tick (R210, R211, R215 to R217) -/

/-- Settles O12: the check and the decode only raise, and no instruction refuses. -/
theorem noStepIsRefused : Obligations.NoStepIsRefused := by
  intro s r h
  obtain ⟨-, h⟩ := (guardAccess_eq_refused_iff _ _ _ _ _).mp h
  cases hd : decodeWord s.fetchWord with
  | none =>
    rw [hd] at h
    cases h
  | some i =>
    rw [hd] at h
    exact exec_ne_refused i s r ((finishTick_eq_refused_iff _ r).mp h)

/-- Settles O8: a word is illegal exactly when it selects no row, and no instruction raises `UndefinedOp`. -/
theorem illegalWordRaisesUndefinedOp : Obligations.IllegalWordRaisesUndefinedOp := by
  constructor
  · intro s hf hrows
    have hstep : step s = .fault (.undefinedOp s.fetchWord) := (step_eq_fault_iff s _).mpr
      (.inr ⟨(fetchable_iff s).mp hf, .inl ⟨(decodeWord_eq_none_iff _).mpr hrows, rfl⟩⟩)
    exact ⟨hstep, tick_of_fault hstep⟩
  · intro s w h
    obtain ⟨a, -, he⟩ | ⟨-, ⟨hd, he⟩ | ⟨i, -, hexec⟩⟩ := (step_eq_fault_iff s _).mp h
    · cases he
    · cases he
      exact ⟨rfl, (decodeWord_eq_none_iff _).mp hd⟩
    · cases (exec_eq_fault_iff i s _).mp hexec

/-- Settles O9: of all raises only 00EE's on an empty stack is `PoppedEmptyStack`. -/
theorem returnOnEmptyStackRaises : Obligations.ReturnOnEmptyStackRaises := by
  constructor
  · intro s hf hd hsp
    have hexec : exec .ret s = .fault .poppedEmptyStack := exec_of_raises (.emptyStack hsp)
    rw [step_of_decode ((fetchable_iff s).mp hf) hd, finishTick_eq_fault_iff]
    exact ⟨hexec, tick_of_exec_fault hf hd hexec⟩
  · intro i s h
    cases (exec_eq_fault_iff i s _).mp h with
    | emptyStack hsp => exact ⟨rfl, hsp⟩

/-- Settles O11: the port hands back the state it was called with, so the next call is the same call. -/
theorem failingTickLeavesTheState : Obligations.FailingTickLeavesTheState := by
  intro s t r h hr
  have hts : t = s := by
    obtain hstep | hstate := tick_state s
    · cases (tick_of_next hstep).symm.trans h
      exact absurd rfl hr
    · rwa [h] at hstate
  exact ⟨hts, hts ▸ h⟩

/-! ### The timers (R220, R221) -/

/-- Settles O10: what the count-down does to the state the instruction left. -/
theorem okTickCountsBothTimersDown : Obligations.OkTickCountsBothTimersDown := by
  intro s t h
  obtain ⟨-, i, u, hd, hexec, rfl⟩ := (step_eq_next_iff s t).mp h
  obtain ⟨hregs, hitems, -⟩ : Frame [] [.dt, .st] u u.countDown :=
    ((Frame.refl u).setDt (.head _) _).setSt (.tail _ (.head _)) _
  exact ⟨i, u, hd, hexec, State.countDown_dt_toNat u, State.countDown_st_toNat u, rfl, hregs, hitems⟩

/-- The instruction that writes `DT` (10_state.md R30). -/
theorem dt_mem_writtenItems {i : Instr} (h : .dt ∈ writtenItems i) : ∃ x, i = .ldDtVx x := by
  cases i <;> simp [writtenItems] at h ⊢

/-- An `Ok` tick of any instruction but FX15 takes 1 from `DT`. -/
theorem step_dt_toNat {s t : State} (hno : ∀ x, decodeWord s.fetchWord ≠ some (.ldDtVx x)) (h : step s = .next t) :
    t.dt.toNat = s.dt.toNat - 1 := by
  obtain ⟨-, i, u, hd, hexec, rfl⟩ := (step_eq_next_iff s t).mp h
  have hdt : u.dt = s.dt := (exec_frame hexec).itemsSame .dt fun hmem => by
    obtain ⟨x, rfl⟩ := dt_mem_writtenItems hmem
    exact hno x hd
  rw [State.countDown_dt_toNat, hdt]

theorem ticksNotSettingDelay_dt_toNat {k : Nat} {s t : State} (h : TicksNotSettingDelay k s t) :
    t.dt.toNat = s.dt.toNat - k := by
  induction h with
  | zero s => rfl
  | succ hno hstep _ ih =>
    rw [ih, step_dt_toNat hno hstep]
    omega

/-- Settles O52: the tick of FX15 takes the first 1 from `V[x]`, the `k` ticks one each, and FX07 reads before its own. -/
theorem delayTimerMeasuresTicks : Obligations.DelayTimerMeasuresTicks := by
  intro x y k s t u v hset hstep hticks hread hlast
  have ht : t.dt.toNat = (s.reg x).toNat - 1 := by
    obtain ⟨-, i, s', hd, hexec, rfl⟩ := (step_eq_next_iff s t).mp hstep
    obtain rfl : i = .ldDtVx x := Option.some.inj (hd.symm.trans hset)
    cases hexec
    exact State.countDown_dt_toNat _
  have hv : v.reg y = u.dt := by
    obtain ⟨-, i, u', hd, hexec, rfl⟩ := (step_eq_next_iff u v).mp hlast
    obtain rfl : i = .ldVxDt y := Option.some.inj (hd.symm.trans hread)
    cases hexec
    exact State.reg_setReg_same u y u.dt
  rw [hv, ticksNotSettingDelay_dt_toNat hticks, ht]
  omega

/-! ### The ports (R227 to R231) -/

theorem Frame.setKeys {regs : List Reg} {items : List Item} {s t : State} (h : Frame regs items s t) (hit : .keys ∈ items)
    (k : Word) : Frame regs items s (t.setKeys k) :=
  h.trans ⟨fun _ _ => rfl, sameBut_of_ne hit fun j hj => by cases j <;> simp_all [Same], fun _ => rfl⟩

theorem getLsbD_keyBit (k : Nibble) (j : Nat) : (keyBit k).getLsbD j = decide (j = k.val) := by
  have htwo : keyBit k = BitVec.twoPow 16 k.val := rfl
  rw [htwo, BitVec.getLsbD_twoPow, decide_eq_true k.isLt, Bool.true_and]
  exact decide_eq_decide.mpr eq_comm

theorem getLsbD_pressKey (s : State) (k : Nibble) (j : Nat) :
    (pressKey k s).keys.getLsbD j = if j = k.val then true else s.keys.getLsbD j := by
  rw [pressKey, State.setKeys_keys, BitVec.getLsbD_or, getLsbD_keyBit k j]
  by_cases h : j = k.val <;> simp [h]

theorem getLsbD_releaseKey (s : State) (k : Nibble) {j : Nat} (hj : j < 16) :
    (releaseKey k s).keys.getLsbD j = if j = k.val then false else s.keys.getLsbD j := by
  rw [releaseKey, State.setKeys_keys, BitVec.getLsbD_and, BitVec.getLsbD_not, getLsbD_keyBit k j, decide_eq_true hj]
  by_cases h : j = k.val <;> simp [h]

/-- Settles O56: the mask's bits after each port, and the frame of writing the mask. -/
theorem keyPortsChangeOneBit : Obligations.KeyPortsChangeOneBit := by
  intro k s
  have hframe (keys : Word) : Frame [] [.keys] s (s.setKeys keys) := (Frame.refl s).setKeys (.head _) keys
  obtain ⟨hregs, hitems, -⟩ := hframe (s.keys ||| keyBit k)
  obtain ⟨hregs', hitems', -⟩ := hframe (s.keys &&& ~~~keyBit k)
  exact ⟨fun j _ => getLsbD_pressKey s k j, fun _ hj => getLsbD_releaseKey s k hj, hregs, hitems, rfl,
    hregs', hitems', rfl⟩

/-- A load stores a run of bytes and sets `PC`, so memory stays canonical and the stack is not touched. -/
theorem State.Inv.writeBytes_setPc {s : State} (h : s.Inv) (a : Nat) (bs : List Byte) (pc : Word) :
    ((s.writeBytes a bs).setPc pc).Inv := by
  refine ⟨?_, State.writeBytes_wf s a bs h.mem, ?_⟩
  · rw [State.setPc_params, State.writeBytes_params]
    exact h.params
  · rw [State.sp, State.setPc_stack, State.setPc_params, State.writeBytes_stack, State.writeBytes_params]
    exact h.stack

theorem State.Inv.setKeys {s : State} (h : s.Inv) (k : Word) : (s.setKeys k).Inv := ⟨h.params, h.mem, h.stack⟩

theorem portCall_keeps_inv {c : PortCall} {s t : State} {r : PortReply} (h : portCall c s = .next (r, t)) (hs : s.Inv) :
    t.Inv := by
  obtain ⟨seed, rfl⟩ | ⟨bytes, rfl⟩ | hstep | rfl | ⟨k, rfl⟩ := portCall_eq_next h
  · exact State.initial_inv seed hs.params
  · exact hs.writeBytes_setPc _ _ _
  · exact stepKeepsTheInvariant s t hs hstep
  · exact hs
  · exact hs.setKeys k

theorem portCalls_keeps_inv {calls : List PortCall} {s t : State} (h : portCalls s calls = some t) (hs : s.Inv) :
    t.Inv := by
  induction calls generalizing s with
  | nil =>
    cases h
    exact hs
  | cons c calls ih =>
    rw [portCalls] at h
    split at h
    · next hcall => exact ih h (portCall_keeps_inv hcall hs)
    · cases h
    · cases h

/-- Settles O18: `initialize` meets the invariant, and every port call that is not refused keeps it. -/
theorem everyReachableStateMeetsTheInvariant : Obligations.EveryReachableStateMeetsTheInvariant := by
  rintro s ⟨p, seed, calls, hp, hcalls⟩
  exact portCalls_keeps_inv hcalls (State.initial_inv seed hp)

end Sys2Proof.Machine
end

section
/-!
PROOFS. The family 70_reset_and_hazards.md. A tick at a self-jump is the count-down alone, so any number of them is an
induction; a load is a run of stores that memory is long enough for; the first fetch after reset reads digit 0's glyph.
-/

namespace Sys2Proof.Machine

open Sys2Proof Sys2Proof.Claims

/-! ### The self-jump (R246) -/

/-- The jump sets `PC` to what it is, so nothing but the count-down is left of the tick. -/
theorem State.AtSelfJump.step {s : State} (h : s.AtSelfJump) : step s = .next s.countDown := by
  obtain ⟨nnn, hfetch, hdecode, htarget⟩ := h
  have hexec : exec (.jp nnn) s = .next s := by
    show Host.Outcome.next (s.setPc (zextAddr nnn)) = .next s
    rw [htarget]
    rfl
  exact (step_of_decode hfetch hdecode).trans ((finishTick_eq_next_iff _ _).mpr ⟨s, hexec, rfl⟩)

/-- The count-down touches neither `PC` nor memory. -/
theorem State.AtSelfJump.countDown {s : State} (h : s.AtSelfJump) : s.countDown.AtSelfJump := h

theorem countDown_frame (s : State) : Frame [] [.dt, .st] s s.countDown :=
  ((Frame.refl s).setDt (.head _) _).setSt (.tail _ (.head _)) _

/-- `k` ticks at a self-jump are `k` count-downs. -/
theorem State.AtSelfJump.safeTicks {s : State} (h : s.AtSelfJump) (k : Nat) :
    ∃ t, SafeTicks k s t ∧ t.AtSelfJump ∧ t.pc = s.pc ∧ Frame [] [.dt, .st] s t ∧
      t.dt.toNat = s.dt.toNat - k ∧ t.st.toNat = s.st.toNat - k := by
  induction k generalizing s with
  | zero => exact ⟨s, .zero s, h, rfl, .refl s, rfl, rfl⟩
  | succ k ih =>
    obtain ⟨t, hticks, hend, hpc, hframe, hdt, hst⟩ := ih h.countDown
    rw [State.countDown_dt_toNat] at hdt
    rw [State.countDown_st_toNat] at hst
    exact ⟨t, .succ h.step hticks, hend, hpc, (countDown_frame s).trans hframe, by omega, by omega⟩

/-- Settles O53, by induction on the number of ticks. -/
theorem selfJumpIsAnEnd : Obligations.SelfJumpIsAnEnd := by
  intro s k h
  obtain ⟨t, hticks, hend, hpc, ⟨hregs, hitems, -⟩, hdt, hst⟩ := h.safeTicks k
  exact ⟨t, hticks, hend, hpc, hregs, hitems, hdt, hst⟩

/-! ### The load (R241, R242) -/

/-- Inside memory an address outside a run of stores that ends inside memory keeps its byte. -/
theorem readByte_writeBytes_of_outside (s : State) {a c : Nat} {bs : List Byte} (hend : a + bs.length ≤ memSize)
    (hc : c < memSize) (hout : c < a ∨ a + bs.length ≤ c) : (s.writeBytes a bs).readByte c = s.readByte c := by
  apply State.readByte_writeBytes_other
  intro k hk
  rw [cellOf_of_lt hc, cellOf_of_lt (by omega)]
  omega

/-- Settles O54: 3584 bytes from 0x200 on end where memory does, so the stores neither wrap nor meet another address. -/
theorem loadProgramCopiesTheBytes : Obligations.LoadProgramCopiesTheBytes := by
  intro bytes s hlen
  have hend : progBase + bytes.length ≤ memSize := by
    simp only [progBase, memSize]
    omega
  obtain ⟨hregs, hitems, -⟩ : Frame [] [.mem] s ((s.writeBytes progBase bytes).setPc (BitVec.ofNat 16 progBase)) :=
    ((Frame.refl s).writeBytes (.head _) _ _).setPc _
  exact ⟨_, (loadProgram_eq_next_iff bytes s _).mpr ⟨hlen, rfl⟩, rfl,
    fun _ hj => State.readByte_writeBytes_at s progBase bytes (Nat.le_of_add_left_le hend) hj,
    fun _ hout ha => readByte_writeBytes_of_outside s hend ha hout, hregs, hitems⟩

/-- Settles O55: such a program does not fit. -/
theorem tooLongProgramIsRefused : Obligations.TooLongProgramIsRefused := by
  intro bytes s hlen
  have hfits : ¬ programFits bytes = true := by
    rw [programFits, decide_eq_true_eq]
    exact Nat.not_le.mpr hlen
  exact if_neg hfits

/-! ### A tick before any load (R245) -/

/-- The first fetch after reset reads the first two bytes of digit 0's glyph (10_state.md R25). -/
theorem fetchWord_initial {p : Params} (seed : Quad) (h : p.wf = true) : (State.initial p seed).fetchWord = 0xF090 := by
  have hbytes := readBytes_initial_digitZero seed h
  have hhigh : (State.initial p seed).readByte 0 = 0xF0 := List.head_eq_of_cons_eq hbytes
  have hlow : (State.initial p seed).readByte 1 = 0x90 := List.head_eq_of_cons_eq (List.tail_eq_of_cons_eq hbytes)
  show joinBytes ((State.initial p seed).readByte 0) ((State.initial p seed).readByte 1) = 0xF090
  rw [hhigh, hlow]
  decide

/-- Settles O58: no instruction has the word 0xF090, and `PC` = 0 can be fetched under either policy. -/
theorem tickBeforeLoadRaisesUndefinedOp : Obligations.TickBeforeLoadRaisesUndefinedOp := by
  intro p seed hp
  have hword := fetchWord_initial seed hp
  have hillegal : decodeWord 0xF090 = none := by decide
  have hfetch : Fetchable (State.initial p seed) := .inr (show 0 < 0x0FFF by decide)
  obtain ⟨-, htick⟩ := illegalWordRaisesUndefinedOp.1 _ hfetch ((decodeWord_eq_none_iff _).mp (hword ▸ hillegal))
  rwa [hword] at htick

end Sys2Proof.Machine
end
